-- ==== Sys2Proof/Word.lean ====
section
/-! DEFINITION. The word types of DES-KSE: the 32-bit host word, the 8-bit host byte address, and the bit
buffer of a declared length (00_scope.md R6, 40_bit_buffer_primitives.md R100). -/

namespace Sys2Proof

/-- A word of the host data path, 32 bits: word bit 31 is the most significant (00_scope.md R6, 20_memory.md R54). -/
abbrev Word := BitVec 32

/-- A byte address of the host register space (20_memory.md R55). -/
abbrev Addr := BitVec 8

/-- One byte. -/
abbrev Byte := BitVec 8

/-- `Buf(n)`: a bit buffer of declared bit length `n` (00_scope.md R6). Buffer index 0 is the most significant bit of
the vector, so a buffer is written in hexadecimal as the spec writes it. -/
abbrev Buf (n : Nat) := BitVec n

/-- `b[i]` of 00_scope.md R6: the bit at buffer index `i`, MSB-first. (Beyond the declared length it is 0; the
primitives of 40_bit_buffer_primitives.md test the bound before they use it.) -/
def bitAt (b : Buf n) (i : Nat) : Bool := b.getMsbD i

/-- A bit buffer as a value: a declared bit length and that many bits (40_bit_buffer_primitives.md R100). -/
structure Buffer where
  /-- the declared bit length -/
  len : Nat
  /-- the bits, index 0 first -/
  bits : Buf len
  deriving DecidableEq, Repr

end Sys2Proof
end

