-- ==== Sys2Proof/Syntax.lean ====
section
/-! DEFINITION. The operations of DES-KSE, one constructor per row of opcode_table.json (00_scope.md R3,
30_encoding.md R88), and the beat of the host port (30_encoding.md R81). -/

namespace Sys2Proof

/-- A beat of the host port, format BEAT, `{we, addr, wdata}` (30_encoding.md R81). -/
structure Beat where
  /-- 0 = read beat RD, 1 = write beat WR -/
  we : Bool
  /-- byte address in the register space -/
  addr : Addr
  /-- write data, not decoded when `we` is 0 -/
  wdata : Word
  deriving DecidableEq, Repr

/-- The forty-nine operations of 30_encoding.md R88. -/
inductive Instr where
  /-- WR CMD NOP (42_host_access_and_commands.md R163) -/
  | wrCmdNop
  /-- WR CMD START (42 R164) -/
  | wrCmdStart
  /-- WR CMD CLEAR (42 R165) -/
  | wrCmdClear
  /-- WR KEY0, v (42 R166) -/
  | wrKey0 (v : Word)
  /-- WR KEY1, v (42 R167) -/
  | wrKey1 (v : Word)
  /-- RD STATUS (42 R168) -/
  | rdStatus
  /-- RD ERRINFO (42 R169) -/
  | rdErrinfo
  /-- RD DBG_C (42 R170) -/
  | rdDbgC
  /-- RD DBG_D (42 R171) -/
  | rdDbgD
  -- RD SKn_HI (42 R172) and RD SKn_LO (42 R173), n = 0..15, in the table's order
  /-- RD SK0_HI: SUBKEY[0] bits 0..31 -/
  | rdSk0Hi
  /-- RD SK0_LO: SUBKEY[0] bits 32..47 -/
  | rdSk0Lo
  /-- RD SK1_HI: SUBKEY[1] bits 0..31 -/
  | rdSk1Hi
  /-- RD SK1_LO: SUBKEY[1] bits 32..47 -/
  | rdSk1Lo
  /-- RD SK2_HI: SUBKEY[2] bits 0..31 -/
  | rdSk2Hi
  /-- RD SK2_LO: SUBKEY[2] bits 32..47 -/
  | rdSk2Lo
  /-- RD SK3_HI: SUBKEY[3] bits 0..31 -/
  | rdSk3Hi
  /-- RD SK3_LO: SUBKEY[3] bits 32..47 -/
  | rdSk3Lo
  /-- RD SK4_HI: SUBKEY[4] bits 0..31 -/
  | rdSk4Hi
  /-- RD SK4_LO: SUBKEY[4] bits 32..47 -/
  | rdSk4Lo
  /-- RD SK5_HI: SUBKEY[5] bits 0..31 -/
  | rdSk5Hi
  /-- RD SK5_LO: SUBKEY[5] bits 32..47 -/
  | rdSk5Lo
  /-- RD SK6_HI: SUBKEY[6] bits 0..31 -/
  | rdSk6Hi
  /-- RD SK6_LO: SUBKEY[6] bits 32..47 -/
  | rdSk6Lo
  /-- RD SK7_HI: SUBKEY[7] bits 0..31 -/
  | rdSk7Hi
  /-- RD SK7_LO: SUBKEY[7] bits 32..47 -/
  | rdSk7Lo
  /-- RD SK8_HI: SUBKEY[8] bits 0..31 -/
  | rdSk8Hi
  /-- RD SK8_LO: SUBKEY[8] bits 32..47 -/
  | rdSk8Lo
  /-- RD SK9_HI: SUBKEY[9] bits 0..31 -/
  | rdSk9Hi
  /-- RD SK9_LO: SUBKEY[9] bits 32..47 -/
  | rdSk9Lo
  /-- RD SK10_HI: SUBKEY[10] bits 0..31 -/
  | rdSk10Hi
  /-- RD SK10_LO: SUBKEY[10] bits 32..47 -/
  | rdSk10Lo
  /-- RD SK11_HI: SUBKEY[11] bits 0..31 -/
  | rdSk11Hi
  /-- RD SK11_LO: SUBKEY[11] bits 32..47 -/
  | rdSk11Lo
  /-- RD SK12_HI: SUBKEY[12] bits 0..31 -/
  | rdSk12Hi
  /-- RD SK12_LO: SUBKEY[12] bits 32..47 -/
  | rdSk12Lo
  /-- RD SK13_HI: SUBKEY[13] bits 0..31 -/
  | rdSk13Hi
  /-- RD SK13_LO: SUBKEY[13] bits 32..47 -/
  | rdSk13Lo
  /-- RD SK14_HI: SUBKEY[14] bits 0..31 -/
  | rdSk14Hi
  /-- RD SK14_LO: SUBKEY[14] bits 32..47 -/
  | rdSk14Lo
  /-- RD SK15_HI: SUBKEY[15] bits 0..31 -/
  | rdSk15Hi
  /-- RD SK15_LO: SUBKEY[15] bits 32..47 -/
  | rdSk15Lo
  /-- ROUND, the sequencer's micro-operation (41_key_schedule_sequencer.md R134) -/
  | round
  /-- LOAD, the micro-operation inside an accepted START (41 R133) -/
  | load
  /-- `get_bit(b, pos)` (40_bit_buffer_primitives.md R104) -/
  | getBit (b : Buffer) (pos : Nat)
  /-- `set_bit(b, pos, value)` (40 R105) -/
  | setBit (b : Buffer) (pos : Nat) (value : Bool)
  /-- `select_range(b, start, length)` (40 R106) -/
  | selectRange (b : Buffer) (start length : Nat)
  /-- `select_by_table(b, table)` (40 R107) -/
  | selectByTable (b : Buffer) (table : List Nat)
  /-- `rotate_left(b, bit_length, amount)` (40 R108) -/
  | rotateLeft (b : Buffer) (bitLength amount : Nat)
  /-- `concatenate(a, bit_length_a, b, bit_length_b)` (40 R109) -/
  | concatenate (a : Buffer) (bitLengthA : Nat) (b : Buffer) (bitLengthB : Nat)
  deriving DecidableEq, Repr

end Sys2Proof
end

