-- ==== Sys2Proof/Decode.lean ====
section
/-! DEFINITION. Decoding: of a beat by the order of 30_encoding.md R82, of a sequencer position by R86, and of any bytes
(log 12); then the encoder, from the same tables. -/

namespace Sys2Proof

/-- Why a beat matches no row of the opcode table (30_encoding.md R89). -/
inductive BeatError where
  /-- `addr[1:0]` is not 0b00 (R82 test 1) -/
  | misaligned
  /-- an aligned address that the map does not list (R82 test 2) -/
  | unmapped
  /-- RD of CMD, KEY0 or KEY1 (R82 test 3) -/
  | writeOnly
  /-- WR of STATUS, ERRINFO, DBG_C, DBG_D, SKn_HI or SKn_LO (R82 test 3) -/
  | readOnly
  /-- WR CMD with a reserved opcode or a non-zero reserved bit (R82 test 4, R84) -/
  | badCommand
  deriving DecidableEq, Repr

/-- Why bytes decode to no instruction. -/
inductive Rejection where
  /-- a beat that matches no row -/
  | beat (e : BeatError)
  /-- six bytes with a bit set above the 41 bits of a beat -/
  | notABeat
  /-- a position that selects no micro-operation (30_encoding.md R86) -/
  | noMicroOp
  /-- a number of bytes that is no format's; the formats without bits among them (30_encoding.md R80) -/
  | noFormat
  deriving DecidableEq, Repr

/-- The words of the host register space that exist (20_memory.md R55). -/
inductive PortReg where
  | cmd
  | status
  | errinfo
  | key0
  | key1
  | dbgC
  | dbgD
  | skHi (n : Fin 16)
  | skLo (n : Fin 16)
  deriving DecidableEq, Repr

/-- A mapped word's byte address (20_memory.md R55). -/
def PortReg.addr : PortReg → Addr
  | .cmd => 0x00#8
  | .status => 0x04#8
  | .errinfo => 0x08#8
  | .key0 => 0x10#8
  | .key1 => 0x14#8
  | .dbgC => 0x20#8
  | .dbgD => 0x24#8
  | .skHi n => BitVec.ofNat 8 (0x40 + 8 * n.val)
  | .skLo n => BitVec.ofNat 8 (0x44 + 8 * n.val)

/-- The subkey number an address of the subkey window names, `addr[7:3] - 8` (30_encoding.md R83). -/
def subkeyNumber (addr : Addr) : Fin 16 := Fin.ofNat 16 ((addr.extractLsb' 3 5).toNat - 8)

/-- The mapped word an aligned address selects (R82 test 2; the subkey window by R83: `addr[2]` = 0 is HI, 1 is LO). -/
def mapWord (addr : Addr) : Option PortReg :=
  if addr = 0x00#8 then some .cmd
  else if addr = 0x04#8 then some .status
  else if addr = 0x08#8 then some .errinfo
  else if addr = 0x10#8 then some .key0
  else if addr = 0x14#8 then some .key1
  else if addr = 0x20#8 then some .dbgC
  else if addr = 0x24#8 then some .dbgD
  else if 0x40 ≤ addr.toNat ∧ addr.toNat ≤ 0xBF then
    if addr.getLsbD 2 then some (.skLo (subkeyNumber addr)) else some (.skHi (subkeyNumber addr))
  else none

/-- The table's sixteen rows RD SKn_HI, n = 0 first. -/
def skHiRows : Vector Instr 16 :=
  #v[.rdSk0Hi, .rdSk1Hi, .rdSk2Hi, .rdSk3Hi,
     .rdSk4Hi, .rdSk5Hi, .rdSk6Hi, .rdSk7Hi,
     .rdSk8Hi, .rdSk9Hi, .rdSk10Hi, .rdSk11Hi,
     .rdSk12Hi, .rdSk13Hi, .rdSk14Hi, .rdSk15Hi]

/-- RD SKn_HI of the table's row (42_host_access_and_commands.md R172). -/
def rdSkHi (n : Fin 16) : Instr :=
  skHiRows[n]

/-- The table's sixteen rows RD SKn_LO, n = 0 first. -/
def skLoRows : Vector Instr 16 :=
  #v[.rdSk0Lo, .rdSk1Lo, .rdSk2Lo, .rdSk3Lo,
     .rdSk4Lo, .rdSk5Lo, .rdSk6Lo, .rdSk7Lo,
     .rdSk8Lo, .rdSk9Lo, .rdSk10Lo, .rdSk11Lo,
     .rdSk12Lo, .rdSk13Lo, .rdSk14Lo, .rdSk15Lo]

/-- RD SKn_LO of the table's row (42 R173). -/
def rdSkLo (n : Fin 16) : Instr :=
  skLoRows[n]

/-- The read beat of a mapped word; CMD, KEY0 and KEY1 are write-only (20_memory.md R55, R59). -/
def decodeRead : PortReg → Except BeatError Instr
  | .cmd => .error .writeOnly
  | .status => .ok .rdStatus
  | .errinfo => .ok .rdErrinfo
  | .key0 => .error .writeOnly
  | .key1 => .error .writeOnly
  | .dbgC => .ok .rdDbgC
  | .dbgD => .ok .rdDbgD
  | .skHi n => .ok (rdSkHi n)
  | .skLo n => .ok (rdSkLo n)

/-- Format CMDW (30_encoding.md R84, 42 R162). -/
def decodeCommand (v : Word) : Except BeatError Instr :=
  if v.extractLsb' 4 28 ≠ 0#28 ∨ 3 ≤ (v.extractLsb' 0 4).toNat then .error .badCommand
  else if v.extractLsb' 0 4 = 0#4 then .ok .wrCmdNop
  else if v.extractLsb' 0 4 = 1#4 then .ok .wrCmdStart
  else .ok .wrCmdClear

/-- The write beat of a mapped word; all but CMD, KEY0 and KEY1 are read-only (20_memory.md R55, R59). -/
def decodeWrite (r : PortReg) (v : Word) : Except BeatError Instr :=
  match r with
  | .cmd => decodeCommand v
  | .status => .error .readOnly
  | .errinfo => .error .readOnly
  | .key0 => .ok (.wrKey0 v)
  | .key1 => .ok (.wrKey1 v)
  | .dbgC => .error .readOnly
  | .dbgD => .error .readOnly
  | .skHi _ => .error .readOnly
  | .skLo _ => .error .readOnly

/-- Decode a beat: alignment, mapping, direction, command word, in this order (30_encoding.md R82). The PHASE
conditions (test 5) are part of the meanings. -/
def decodeBeat (b : Beat) : Except BeatError Instr :=
  if b.addr.extractLsb' 0 2 ≠ 0#2 then .error .misaligned
  else
    match mapWord b.addr with
    | none => .error .unmapped
    | some r => if b.we then decodeWrite r b.wdata else decodeRead r

/-- The fields of a 41-bit beat (30_encoding.md R81). -/
def Beat.ofBits (x : BitVec 41) : Beat := ⟨x.getLsbD 40, x.extractLsb' 32 8, x.extractLsb' 0 32⟩

/-- The 41 bits `{we, addr, wdata}` of a beat (30_encoding.md R81). -/
def Beat.toBits (b : Beat) : BitVec 41 := BitVec.ofBool b.we ++ b.addr ++ b.wdata

/-- Decode a sequencer position `{PHASE[1:0], ROUND[4:0]}`: `01rrrrr` with `rrrrr` in 0..15 selects ROUND, every other
position no micro-operation (30_encoding.md R86; 93_implementation_defined.md X10, X11). -/
def decodePosition (p : BitVec 7) : Except Rejection Instr :=
  if p.extractLsb' 5 2 = 1#2 ∧ (p.extractLsb' 0 5).toNat < 16 then .ok .round else .error .noMicroOp

/-- The 41-bit number held in six bytes, the first the least significant (log 12), if its upper seven bits are 0. -/
def beatOfBytes (b0 b1 b2 b3 b4 b5 : Byte) : Option Beat :=
  let x : BitVec 48 := b5 ++ b4 ++ b3 ++ b2 ++ b1 ++ b0
  if x.extractLsb' 41 7 = 0#7 then some (Beat.ofBits (x.extractLsb' 0 41)) else none

/-- Decode any bytes: six bytes are a beat, one byte is a sequencer position, anything else has no format (log 12). -/
def decode : List Byte → Except Rejection Instr
  | [p] => if p.getLsbD 7 then .error .noMicroOp else decodePosition (p.extractLsb' 0 7)
  | [b0, b1, b2, b3, b4, b5] =>
    match beatOfBytes b0 b1 b2 b3 b4 b5 with
    | none => .error .notABeat
    | some b =>
      match decodeBeat b with
      | .ok i => .ok i
      | .error e => .error (.beat e)
  | _ => .error .noFormat

/-- The `n` lowest bytes of a number, least significant first (log 12). -/
def bytesOf : Nat → Nat → List Byte
  | 0, _ => []
  | n + 1, w => BitVec.ofNat 8 w :: bytesOf n (w / 256)

/-- What the decoder reads from the instruction whose bits are `w`, numbered as opcode_table.json numbers them. -/
def decodeTableWord (nbits w : Nat) : Option Instr :=
  match decode (bytesOf ((nbits + 7) / 8) w) with
  | .ok i => some i
  | .error _ => none

/-- The read beat of a word; wdata is ignored, and the encoder sets it to 0 (30_encoding.md R81; log 17). -/
def readBeat (r : PortReg) : Beat := ⟨false, r.addr, 0#32⟩

/-- The write beat of a word. -/
def writeBeat (r : PortReg) (v : Word) : Beat := ⟨true, r.addr, v⟩

/-- The beat of an instruction, for those of format BEAT (the match column of 30_encoding.md R88). -/
def encodeBeat : Instr → Option Beat
  | .wrCmdNop => some (writeBeat .cmd 0x0#32)
  | .wrCmdStart => some (writeBeat .cmd 0x1#32)
  | .wrCmdClear => some (writeBeat .cmd 0x2#32)
  | .wrKey0 v => some (writeBeat .key0 v)
  | .wrKey1 v => some (writeBeat .key1 v)
  | .rdStatus => some (readBeat .status)
  | .rdErrinfo => some (readBeat .errinfo)
  | .rdDbgC => some (readBeat .dbgC)
  | .rdDbgD => some (readBeat .dbgD)
  | .rdSk0Hi => some (readBeat (.skHi 0))
  | .rdSk0Lo => some (readBeat (.skLo 0))
  | .rdSk1Hi => some (readBeat (.skHi 1))
  | .rdSk1Lo => some (readBeat (.skLo 1))
  | .rdSk2Hi => some (readBeat (.skHi 2))
  | .rdSk2Lo => some (readBeat (.skLo 2))
  | .rdSk3Hi => some (readBeat (.skHi 3))
  | .rdSk3Lo => some (readBeat (.skLo 3))
  | .rdSk4Hi => some (readBeat (.skHi 4))
  | .rdSk4Lo => some (readBeat (.skLo 4))
  | .rdSk5Hi => some (readBeat (.skHi 5))
  | .rdSk5Lo => some (readBeat (.skLo 5))
  | .rdSk6Hi => some (readBeat (.skHi 6))
  | .rdSk6Lo => some (readBeat (.skLo 6))
  | .rdSk7Hi => some (readBeat (.skHi 7))
  | .rdSk7Lo => some (readBeat (.skLo 7))
  | .rdSk8Hi => some (readBeat (.skHi 8))
  | .rdSk8Lo => some (readBeat (.skLo 8))
  | .rdSk9Hi => some (readBeat (.skHi 9))
  | .rdSk9Lo => some (readBeat (.skLo 9))
  | .rdSk10Hi => some (readBeat (.skHi 10))
  | .rdSk10Lo => some (readBeat (.skLo 10))
  | .rdSk11Hi => some (readBeat (.skHi 11))
  | .rdSk11Lo => some (readBeat (.skLo 11))
  | .rdSk12Hi => some (readBeat (.skHi 12))
  | .rdSk12Lo => some (readBeat (.skLo 12))
  | .rdSk13Hi => some (readBeat (.skHi 13))
  | .rdSk13Lo => some (readBeat (.skLo 13))
  | .rdSk14Hi => some (readBeat (.skHi 14))
  | .rdSk14Lo => some (readBeat (.skLo 14))
  | .rdSk15Hi => some (readBeat (.skHi 15))
  | .rdSk15Lo => some (readBeat (.skLo 15))
  | .round => none
  | .load => none
  | .getBit _ _ => none
  | .setBit _ _ _ => none
  | .selectRange _ _ _ => none
  | .selectByTable _ _ => none
  | .rotateLeft _ _ _ => none
  | .concatenate _ _ _ _ => none

/-- The position byte of the micro-operation ROUND with ROUND = r (30_encoding.md R86). -/
def positionByte (r : BitVec 5) : Byte := 0b001#3 ++ r

/-- The bytes of an instruction: six for a beat, one for ROUND (with ROUND = 0, log 17), none for LOAD and the six
primitives, which have no encoding (30_encoding.md R80, R86). -/
def encode (i : Instr) : List Byte :=
  match encodeBeat i with
  | some b => bytesOf 6 b.toBits.toNat
  | none => if i = .round then [positionByte 0#5] else []

/-- The instruction has bits of its own that select it (30_encoding.md R80, R88). -/
def Instr.hasEncoding (i : Instr) : Bool := (encodeBeat i).isSome || decide (i = .round)

end Sys2Proof
end

