-- ==== Sys2Proof/Config.lean ====
section
/-! DEFINITION. What is fixed for the machine and what is left free: the shape of the table configuration
`cfg = (PC1, PC2, SHIFTS)` (00_scope.md R5), the constant sizes (00_scope.md R4), and the free values that reads of a
register holding `novalue` answer (10_state.md R24; log 3). The default contents of the tables are in
Machine/Tables.lean. -/

namespace Sys2Proof

namespace Config

/-- The number of rounds, and of subkeys (00_scope.md R4). -/
def rounds : Nat := 16

/-- The bit length of each half, C and D (00_scope.md R4). -/
def halfBits : Nat := 28

/-- The configuration `cfg = (PC1, PC2, SHIFTS)` of 00_scope.md R5: entries of PC1 and PC2 are 1-based source positions,
an entry of SHIFTS is the rotation amount itself (30_encoding.md R87). The lengths are not part of the type: a table of
another length is a malformed table, which `tablesOk` tells (40_bit_buffer_primitives.md R110). -/
structure Tables where
  pc1 : List Nat
  pc2 : List Nat
  shifts : List Nat
  deriving DecidableEq, Repr

/-- The data registers that can hold `novalue` (10_state.md R24), by name. -/
inductive DataReg where
  /-- KEY[0..31] -/
  | key0
  /-- KEY[32..63] -/
  | key1
  /-- the left half -/
  | c
  /-- the right half -/
  | d
  /-- SUBKEY[i] -/
  | subkey (i : Nat)
  deriving DecidableEq, Repr

/-- FREE VALUE (log 3): the `w` bits a read of register `r` answers while it holds `novalue`, at the step numbered
`index`. The spec says such a read never happens (10_state.md R24) and that a model may hold any value there
(93_implementation_defined.md X12 to X15): nothing constrains it. -/
opaque noValue (r : DataReg) (w : Nat) (index : Nat) : BitVec w

end Config

end Sys2Proof
end

