-- ==== Sys2Proof/Machine/Buffer.lean ====
section
/-! DEFINITION. The six bit-buffer primitives of 40_bit_buffer_primitives.md R104 to R109 as pure functions: `some v`
is the value v, `none` is the outcome `fault BOUNDS` (00_scope.md R6; 60_exceptions.md R203). They are the
bit-permutation unit, the two rotators and the wiring that LOAD and ROUND use, and what the six DATAPATH
instructions answer on their own. -/

namespace Sys2Proof.Machine

/-- The buffer of declared length `n` whose bit `i` is `f i` (the comprehension `r[i] = … for 0 <= i < n` of the
pseudocode). -/
def bufOf : (n : Nat) → (Nat → Bool) → Buf n
  | 0, _ => 0#0
  | n + 1, f => (bufOf n f).concat (f n)

/-- The number of bytes of a buffer of declared length `n`, `ceil(n / 8)` (40 R100). -/
def byteCount (n : Nat) : Nat := (n + 7) / 8

/-- Byte `j` of a buffer's byte image: buffer bits 8j .. 8j+7, MSB-first, every bit at or beyond the declared length
zero (40 R100, 20_memory.md R50). -/
def imageByte (b : Buf n) (j : Nat) : Byte := bufOf 8 fun k => decide (8 * j + k < n) && bitAt b (8 * j + k)

/-- The byte image of a buffer: `ceil(n / 8)` bytes (40 R100). -/
def byteImage (b : Buf n) : List Byte := (List.range (byteCount n)).map (imageByte b)

/-- `get_bit(b, pos)` (40 R104), through the byte image as the pseudocode has it. -/
def getBit (b : Buf n) (pos : Nat) : Option Bool :=
  if n ≤ pos then none
  else
    let byteIndex := pos / 8
    let bitInByte := pos % 8
    some ((((byteImage b)[byteIndex]?.getD 0 >>> (7 - bitInByte)) &&& 1) == 1)

/-- `set_bit(b, pos, value)` (40 R105): the changed buffer, the argument untouched (40 R100). -/
def setBit (b : Buf n) (pos : Nat) (value : Bool) : Option (Buf n) :=
  if n ≤ pos then none
  else some (bufOf n fun i => if i = pos then value else bitAt b i)

/-- `select_range(b, start, length)` (40 R106). -/
def selectRange (b : Buf n) (start length : Nat) : Option (Buf length) :=
  if n < start + length then none
  else some (bufOf length fun i => bitAt b (start + i))

/-- Every entry of a 1-based table names a bit of a buffer of length `n` (40 R107). -/
def entriesWithin (n : Nat) (table : List Nat) : Bool := table.all fun e => decide (1 ≤ e) && decide (e ≤ n)

/-- `select_by_table(b, table)` (40 R107): no partial result where an entry is bad. -/
def selectByTable (b : Buf n) (table : List Nat) : Option (Buf table.length) :=
  if entriesWithin n table then some (bufOf table.length fun i => bitAt b (table.getD i 0 - 1))
  else none

/-- `rotate_left(b, bit_length, amount)` (40 R108): left means toward index 0; the amount is not reduced. -/
def rotateLeft (b : Buf n) (bitLength amount : Nat) : Option (Buf bitLength) :=
  if n < bitLength then none
  else if bitLength ≤ amount then none
  else some (bufOf bitLength fun i => bitAt b ((i + amount) % bitLength))

/-- `concatenate(a, bit_length_a, b, bit_length_b)` (40 R109). -/
def concatenate (a : Buf na) (bitLengthA : Nat) (b : Buf nb) (bitLengthB : Nat) :
    Option (Buf (bitLengthA + bitLengthB)) :=
  if na < bitLengthA ∨ nb < bitLengthB then none
  else some (bufOf (bitLengthA + bitLengthB) fun i =>
    if i < bitLengthA then bitAt a i else bitAt b (i - bitLengthA))

/-- A buffer of declared length `n` taken as one of declared length `m`: `none` where the lengths differ, for a buffer
is never silently truncated or padded (00_scope.md R8). It is how the result of a table of any length enters a
register of a fixed length. -/
def ofLength (m : Nat) (b : Buf n) : Option (Buf m) :=
  if h : n = m then some (b.cast h) else none

/-- `pack32(b, off)` (20_memory.md R51): word bit `31 - j` is `b[off + j]`, 0 beyond the declared length. -/
def pack32 (b : Buf n) (off : Nat) : Word := bufOf 32 fun j => decide (off + j < n) && bitAt b (off + j)

/-- `unpack32(w)` (00_scope.md R6): the buffer of 32 bits whose bit `j` is word bit `31 - j`. -/
def unpack32 (w : Word) : Buf 32 := bufOf 32 fun j => w.getLsbD (31 - j)

end Sys2Proof.Machine
end

