-- ==== Sys2Proof/Machine/Tables.lean ====
section
/-! DEFINITION. The default contents of the three constant tables (40_bit_buffer_primitives.md R101 to R103) and the
well-formedness predicate of a configuration (40 R110). -/

namespace Sys2Proof.Machine

/-- PC1, 56 entries (40 R101; general knowledge marked so by the spec, 93_implementation_defined.md G1; log 23). -/
def defaultPc1 : List Nat :=
  [57, 49, 41, 33, 25, 17, 9,
   1, 58, 50, 42, 34, 26, 18] ++
  [10, 2, 59, 51, 43, 35, 27,
   19, 11, 3, 60, 52, 44, 36] ++
  [63, 55, 47, 39, 31, 23, 15,
   7, 62, 54, 46, 38, 30, 22] ++
  [14, 6, 61, 53, 45, 37, 29,
   21, 13, 5, 28, 20, 12, 4]

/-- PC2, 48 entries (40 R102; general knowledge, G2; log 23). -/
def defaultPc2 : List Nat :=
  [14, 17, 11, 24, 1, 5,
   3, 28, 15, 6, 21, 10] ++
  [23, 19, 12, 4, 26, 8,
   16, 7, 27, 20, 13, 2] ++
  [41, 52, 31, 37, 47, 55,
   30, 40, 51, 45, 33, 48] ++
  [44, 49, 39, 56, 34, 53,
   46, 42, 50, 36, 29, 32]

/-- SHIFTS, 16 entries, round 1 first (40 R103; general knowledge, G3; log 23). -/
def defaultShifts : List Nat := [1, 1, 2, 2, 2, 2, 2, 2, 1, 2, 2, 2, 2, 2, 2, 1]

/-- The configuration this hardware takes (00_scope.md R5). -/
def defaultTables : Config.Tables := ⟨defaultPc1, defaultPc2, defaultShifts⟩

/-- `tables_ok(cfg)` (40 R110). Distinctness of entries is not required. -/
def tablesOk (cfg : Config.Tables) : Bool :=
  decide (cfg.pc1.length = 56) && entriesWithin 64 cfg.pc1
    && decide (cfg.pc2.length = 48) && entriesWithin 56 cfg.pc2
    && decide (cfg.shifts.length = 16) && cfg.shifts.all (fun a => a == 1 || a == 2) && decide (cfg.shifts.sum = 28)

end Sys2Proof.Machine
end

