-- ==== Sys2Proof/Machine/State.lean ====
section
/-! DEFINITION. The state of one DES-KSE instance, as plain data, and its value after reset. The first group of fields
is the spec's tuple (10_state.md R20); the second is the constant configuration (00_scope.md R5, log 4); the third the
port's response (42_host_access_and_commands.md R176, R177); the fourth the model's own (log 18). -/

namespace Sys2Proof.Machine

/-- PHASE (10_state.md R28). -/
inductive Phase where
  /-- no call in progress, no result held -/
  | idle
  /-- a call is in progress -/
  | run
  /-- the call finished; SUBKEY[0..15] all hold values -/
  | done
  /-- a precondition violation was detected -/
  | error
  deriving DecidableEq, Repr

/-- CAUSE, by name (60_exceptions.md R200). Codes 8 to 15 have no name: they are never recorded (93 X8, log 20). -/
inductive Cause where
  /-- no error recorded -/
  | none
  /-- START without both key words written (60 R201) -/
  | keylen
  /-- START with tables that fail `tablesOk` (60 R202) -/
  | table
  /-- the name of a primitive's fault; never recorded (60 R203) -/
  | bounds
  /-- START in RUN (60 R204) -/
  | seq
  /-- WR CMD with a word that is no command (60 R205) -/
  | badcmd
  /-- misaligned, unmapped or wrong direction (60 R206) -/
  | access
  /-- a read of a register that holds no value in this PHASE (60 R207) -/
  | notready
  deriving DecidableEq, Repr

/-- An event of the order of 20_memory.md R60. -/
inductive Event where
  /-- the host presents a beat -/
  | beat (b : Beat)
  /-- the sequencer's turn: one ROUND step if PHASE = RUN, else nothing (41_key_schedule_sequencer.md R131) -/
  | sequencer
  /-- reset is asserted (70_reset_and_hazards.md R240) -/
  | reset
  deriving DecidableEq, Repr

/-- What a bit-buffer primitive performed on its own answers (log 7): a value or `fault BOUNDS`. -/
inductive UnitOut where
  /-- no primitive has been performed on its own since the last event or reset -/
  | idle
  /-- a bit -/
  | bit (v : Bool)
  /-- a buffer -/
  | buf (b : Buffer)
  /-- `fault BOUNDS` (60_exceptions.md R203) -/
  | bounds
  deriving DecidableEq, Repr

/-- One DES-KSE instance. A data register is a value or `novalue`, written `none` (10_state.md R24, log 2). -/
structure State where
  /-- KEY[0..31] (10_state.md R21) -/
  key0 : Option (Buf 32)
  /-- KEY[32..63] (R21) -/
  key1 : Option (Buf 32)
  /-- KEYVALID (R22) -/
  keyvalid : BitVec 2
  /-- C (R23) -/
  c : Option (Buf 28)
  /-- D (R23) -/
  d : Option (Buf 28)
  /-- SUBKEY[0..15] (R25) -/
  subkey : Vector (Option (Buf 48)) 16
  /-- PHASE (R28) -/
  phase : Phase
  /-- ROUND (R29) -/
  round : BitVec 5
  /-- CAUSE (R30) -/
  cause : Cause
  /-- ERRADDR (R30) -/
  errAddr : Addr
  /-- ERRWE (R30) -/
  errWe : Bool
  /-- the constant tables; no operation writes them (R26, log 4) -/
  cfg : Config.Tables
  /-- rdata, the response's data (42 R176; log 6) -/
  rdata : Word
  /-- err, the response's error (42 R176; log 6) -/
  err : Bool
  /-- the answer of a primitive performed on its own (log 7) -/
  unitOut : UnitOut
  /-- the events to come, the next first (log 5) -/
  inputs : List Event
  /-- the index of the free values (log 3) -/
  freeIndex : Nat
  deriving DecidableEq, Repr

/-- The state after reset (10_state.md R38, 70 R240, R242): IDLE, every data register `novalue`, the tables at the
contents this hardware takes (70 R241), no event waiting. -/
def State.reset : State where
  key0 := none
  key1 := none
  keyvalid := 0#2
  c := none
  d := none
  subkey := Vector.replicate 16 none
  phase := .idle
  round := 0#5
  cause := .none
  errAddr := 0#8
  errWe := false
  cfg := defaultTables
  rdata := 0#32
  err := false
  unitOut := .idle
  inputs := []
  freeIndex := 0

/-- Why the machine stops. Errors of the hardware are no stop: trap entry is a next state (log 1). -/
inductive Fault where
  /-- Raised by the micro-operations ROUND and LOAD (the latter inside START) where a primitive answers `fault BOUNDS`
  inside them. START tests `tablesOk` before any primitive runs, so no run reaches it (60_exceptions.md R203, 41 R134;
  log 10). SAFE: the model stops where the rules give no step. -/
  | bounds
  deriving DecidableEq, Repr

/-- Why an instruction has no meaning. -/
inductive Refusal where
  /-- Raised by an arm of exec whose instruction is not modelled; no arm raises it. SAFE. -/
  | notModelled (mnemonic : String)
  deriving DecidableEq, Repr

/-- The three outcomes of a step of this machine. -/
abbrev Outcome := Host.Outcome State Fault Refusal

end Sys2Proof.Machine
end

