-- ==== Sys2Proof/Machine/Flags.lean ====
section
/-! DEFINITION. The flags and the views of the state: PHASE's and CAUSE's codes, the level outputs (10_state.md R34),
KEYVALID (R22), and the words STATUS (R32) and ERRINFO (R33). -/

namespace Sys2Proof.Machine

/-- PHASE's encoding (10_state.md R28). -/
def Phase.code : Phase → BitVec 2
  | .idle => 0b00#2
  | .run => 0b01#2
  | .done => 0b10#2
  | .error => 0b11#2

/-- The PHASE a two-bit code names (10_state.md R28). -/
def Phase.ofCode (x : BitVec 2) : Phase :=
  if x = 0b00#2 then .idle else if x = 0b01#2 then .run else if x = 0b10#2 then .done else .error

/-- CAUSE's code (60_exceptions.md R200). -/
def Cause.code : Cause → BitVec 4
  | .none => 0#4
  | .keylen => 1#4
  | .table => 2#4
  | .bounds => 3#4
  | .seq => 4#4
  | .badcmd => 5#4
  | .access => 6#4
  | .notready => 7#4

/-- `busy_o` (10_state.md R34, 60 R214). -/
def State.busyO (s : State) : Bool := s.phase = .run

/-- `done_o` (10_state.md R34, 60 R214). -/
def State.doneO (s : State) : Bool := s.phase = .done

/-- `error_o` (10_state.md R34, 60 R214). -/
def State.errorO (s : State) : Bool := s.phase = .error

/-- KEYVALID with bit 0 set (10_state.md R22). -/
def setKey0Valid (kv : BitVec 2) : BitVec 2 := kv ||| 0b01#2

/-- KEYVALID with bit 1 set (10_state.md R22). -/
def setKey1Valid (kv : BitVec 2) : BitVec 2 := kv ||| 0b10#2

/-- STATUS: [1:0] PHASE, [2] KEYVALID[0], [3] KEYVALID[1], [8:4] ROUND, [31:9] zero (10_state.md R32, 42 R168). -/
def State.statusWord (s : State) : Word := 0#23 ++ s.round ++ s.keyvalid ++ s.phase.code

/-- ERRINFO: [3:0] CAUSE, [4] ERRWE, [7:5] zero, [15:8] ERRADDR, [31:16] zero (10_state.md R33, 42 R169). -/
def State.errinfoWord (s : State) : Word :=
  0#16 ++ s.errAddr ++ 0#3 ++ BitVec.ofBool s.errWe ++ s.cause.code

/-- The sequencer position `{PHASE[1:0], ROUND[4:0]}` (30_encoding.md R86). -/
def State.position (s : State) : BitVec 7 := s.phase.code ++ s.round

end Sys2Proof.Machine
end

