-- ==== Sys2Proof/Machine/Operands.lean ====
section
/-! DEFINITION. The operand forms: the key word of a WR beat (20_memory.md R52), the words results leave through
(20_memory.md R53), and the reads of the data registers, each through one accessor. A read of a register that holds
`novalue` answers a free value (log 3); no run reaches one (10_state.md R24). -/

namespace Sys2Proof.Machine

/-- The value of a data register `r` that holds `x`; free where it holds `novalue`. -/
def readReg (r : Config.DataReg) (x : Option (Buf w)) (index : Nat) : Buf w := x.getD (Config.noValue r w index)

/-- KEY, all 64 bits: KEY[0..31] then KEY[32..63] (10_state.md R21). -/
def State.readKey (s : State) : Buf 64 := readReg .key0 s.key0 s.freeIndex ++ readReg .key1 s.key1 s.freeIndex

/-- C (10_state.md R23). -/
def State.readC (s : State) : Buf 28 := readReg .c s.c s.freeIndex

/-- D (10_state.md R23). -/
def State.readD (s : State) : Buf 28 := readReg .d s.d s.freeIndex

/-- SUBKEY[n] (10_state.md R25). -/
def State.readSubkey (s : State) (n : Fin 16) : Buf 48 := readReg (.subkey n.val) s.subkey[n] s.freeIndex

/-- The half of KEY a key word `v` carries: `KEY[j] = v[31 - j]` (20_memory.md R52, 42 R166, R167). -/
def keyHalf (v : Word) : Buf 32 := unpack32 v

/-- DBG_C (20_memory.md R53). -/
def State.dbgCWord (s : State) : Word := pack32 s.readC 0

/-- DBG_D (20_memory.md R53). -/
def State.dbgDWord (s : State) : Word := pack32 s.readD 0

/-- SKn_HI: subkey bits 0..31 (20_memory.md R53). -/
def State.skHiWord (s : State) (n : Fin 16) : Word := pack32 (s.readSubkey n) 0

/-- SKn_LO: subkey bits 32..47, then 16 zero bits (20_memory.md R53). -/
def State.skLoWord (s : State) (n : Fin 16) : Word := pack32 (s.readSubkey n) 32

end Sys2Proof.Machine
end

