-- ==== Sys2Proof/Machine/Ops.lean ====
section
/-! DEFINITION. The named operations over the state: the response of a beat, the refusal in ERROR, trap entry and the
return from it, the two micro-operations LOAD and ROUND, and the guards the beats share. -/

namespace Sys2Proof.Machine

/-! ### The response (42_host_access_and_commands.md R176) -/

/-- A beat that succeeds answers `rdata = v`, `err = 0`. -/
def State.respond (s : State) (v : Word) : State := { s with rdata := v, err := false }

/-- The error response: `rdata = 0`, `err = 1`. -/
def State.respondError (s : State) : State := { s with rdata := 0#32, err := true }

/-- A beat refused in ERROR: the error response and no change of state (42 R175, 60 R213). -/
def State.refuse (s : State) : State := s.respondError

/-! ### Trap entry and return (60_exceptions.md R210 to R213) -/

/-- The data registers give up their values: KEY, C, D, SUBKEY[0..15] become `novalue` (60 R210, 42 R165). -/
def State.withdraw (s : State) : State :=
  { s with key0 := none, key1 := none, c := none, d := none, subkey := Vector.replicate 16 none }

/-- Trap entry, `raise <Cause>(addr, we)` when PHASE is not ERROR (60 R210): the cause, the address and the direction
are recorded, PHASE becomes ERROR, everything derived from a key is withdrawn, ROUND stays, and the beat answers the
error response. -/
def State.trap (s : State) (cause : Cause) (addr : Addr) (we : Bool) : State :=
  { s.withdraw with cause := cause, errAddr := addr, errWe := we, phase := .error, keyvalid := 0#2 }.respondError

/-- A beat that offends: trap entry, or, when PHASE is already ERROR, a refusal with no record (42 R175, 60 R208 (1),
R213). -/
def State.offend (s : State) (cause : Cause) (addr : Addr) (we : Bool) : State :=
  match s.phase with
  | .error => s.refuse
  | .idle => s.trap cause addr we
  | .run => s.trap cause addr we
  | .done => s.trap cause addr we

/-- The reset state of the spec's registers (10_state.md R38), by reset or by CLEAR, which are the same state change
(70 R240) and the return from ERROR (60 R212). The tables are untouched (70 R241), and so are the model's list of
coming events and its free index (log 21). -/
def State.clear (s : State) : State :=
  { State.reset with cfg := s.cfg, inputs := s.inputs, freeIndex := s.freeIndex }

/-! ### The guards the beats share -/

/-- A beat that succeeds in IDLE, RUN and DONE with the effect `t`, and is refused in ERROR (42 R175). -/
def State.unlessError (s t : State) : State :=
  match s.phase with
  | .error => s.refuse
  | .idle => t
  | .run => t
  | .done => t

/-- A read of C or D: served in RUN and DONE, NOTREADY in IDLE, refused in ERROR (42 R170, R171, R175). -/
def State.readInCall (s : State) (addr : Addr) (v : Word) : State :=
  match s.phase with
  | .error => s.refuse
  | .idle => s.trap .notready addr false
  | .run => s.respond v
  | .done => s.respond v

/-- A read of a subkey word: served in DONE, NOTREADY in IDLE and RUN, refused in ERROR (42 R172, R173, R175). -/
def State.readWhenDone (s : State) (addr : Addr) (v : Word) : State :=
  match s.phase with
  | .error => s.refuse
  | .idle => s.trap .notready addr false
  | .run => s.trap .notready addr false
  | .done => s.respond v

/-! ### The micro-operations (41_key_schedule_sequencer.md R133, R134) -/

/-- The halves LOAD makes of a key (41 R130 steps 1 and 2): PC1, whose result has 56 bits, then the split; `none` where a
primitive answers `fault BOUNDS` or PC1 gives another length. -/
def splitKey (cfg : Config.Tables) (key : Buf 64) : Option (Buf 28 × Buf 28) :=
  match (selectByTable key cfg.pc1).bind (ofLength 56) with
  | none => none
  | some permuted =>
    match selectRange permuted 0 28, selectRange permuted 28 28 with
    | some c, some d => some (c, d)
    | _, _ => none

/-- What one round makes of the halves (41 R130 step 3, R134), `r` the number of rounds completed before it: both halves
rotated by `SHIFTS[r]`, and PC2 of the joined halves. -/
def roundOf (cfg : Config.Tables) (r : Nat) (c d : Buf 28) : Option (Buf 28 × Buf 28 × Buf 48) :=
  match cfg.shifts[r]? with
  | none => none
  | some a =>
    match rotateLeft c 28 a, rotateLeft d 28 a with
    | some c', some d' =>
      match concatenate c' 28 d' 28 with
      | none => none
      | some cd =>
        match selectByTable cd cfg.pc2 with
        | none => none
        | some selected =>
          match ofLength 48 selected with
          | none => none
          | some subkey => some (c', d', subkey)
    | _, _ => none

/-- The conditions under which LOAD is performed (41 R133's precondition, tested by START). -/
def State.loadReady (s : State) : Bool :=
  (s.phase = .idle || s.phase = .done) && tablesOk s.cfg && decide (s.keyvalid = 0b11#2)

/-- The writes of LOAD (41 R133); `none` where a primitive answers `fault BOUNDS`. -/
def State.load (s : State) : Option State :=
  match splitKey s.cfg s.readKey with
  | none => none
  | some (c, d) =>
    some { s with
      c := some c
      d := some d
      round := 0#5
      phase := .run
      keyvalid := 0#2
      key0 := none
      key1 := none
      subkey := Vector.replicate 16 none }

/-- The sequencer has the step ROUND: PHASE = RUN with ROUND in 0..15 (30_encoding.md R86, 41 R131). -/
def State.roundReady (s : State) : Bool := s.phase = .run && decide (s.round.toNat < 16)

/-- The writes of ROUND, all together (41 R134, 20_memory.md R61); `none` where a primitive answers `fault BOUNDS`. -/
def State.runRound (s : State) : Option State :=
  match roundOf s.cfg s.round.toNat s.readC s.readD with
  | none => none
  | some (c, d, subkey) =>
    some { s with
      c := some c
      d := some d
      subkey := s.subkey.setIfInBounds s.round.toNat (some subkey)
      round := s.round + 1#5
      phase := if s.round.toNat + 1 = 16 then .done else s.phase }

/-- The outcome of a micro-operation: its next state, or the model's stop `bounds` (log 10). -/
def microOutcome : Option State → Outcome
  | some t => .next t
  | none => .fault .bounds

/-! ### The answer of a primitive performed on its own (log 7) -/

/-- The unit's output takes a primitive's answer: a value as `out` presents it, or `fault BOUNDS`. -/
def State.unitAnswer (s : State) (out : α → UnitOut) (r : Option α) : State :=
  match r with
  | some v => { s with unitOut := out v }
  | none => { s with unitOut := .bounds }

/-- A buffer answer. -/
def bufOut (b : Buf n) : UnitOut := .buf ⟨n, b⟩

end Sys2Proof.Machine
end

