-- ==== Sys2Proof/Machine/Commands.lean ====
section
/-! DEFINITION. The three commands NOP, START and CLEAR (42_host_access_and_commands.md R163 to R165). -/

namespace Sys2Proof.Machine

/-- WR CMD NOP: no state change, err = 0, in every PHASE including ERROR (42 R163). -/
def execWrCmdNop (s : State) : Outcome := .next (s.respond 0#32)

/-- START in IDLE or DONE, its tests in this order: TABLE, KEYLEN, then LOAD (42 R164). -/
def State.startCall (s : State) : Outcome :=
  if tablesOk s.cfg = false then .next (s.trap .table PortReg.cmd.addr true)
  else if s.keyvalid ≠ 0b11#2 then .next (s.trap .keylen PortReg.cmd.addr true)
  else microOutcome (s.load.map fun t => t.respond 0#32)

/-- WR CMD START: refused in ERROR, SEQ in RUN, else the call is started (42 R164, 60 R201, R202, R204). -/
def execWrCmdStart (s : State) : Outcome :=
  match s.phase with
  | .error => .next s.refuse
  | .run => .next (s.trap .seq PortReg.cmd.addr true)
  | .idle => s.startCall
  | .done => s.startCall

/-- WR CMD CLEAR: the reset state, err = 0, in every PHASE (42 R165, 60 R212). -/
def execWrCmdClear (s : State) : Outcome := .next (s.clear.respond 0#32)

end Sys2Proof.Machine
end

