-- ==== Sys2Proof/Machine/Datapath.lean ====
section
/-! DEFINITION. The six primitives performed on their own (40_bit_buffer_primitives.md R104 to R109): the operands are
the instruction's, the answer, a value or `fault BOUNDS`, is on the unit's output, and nothing else changes (40 R114;
log 7). -/

namespace Sys2Proof.Machine

/-- `get_bit(b, pos)` (40 R104). -/
def execGetBit (b : Buffer) (pos : Nat) (s : State) : Outcome :=
  .next (s.unitAnswer .bit (getBit b.bits pos))

/-- `set_bit(b, pos, value)` (40 R105). -/
def execSetBit (b : Buffer) (pos : Nat) (value : Bool) (s : State) : Outcome :=
  .next (s.unitAnswer bufOut (setBit b.bits pos value))

/-- `select_range(b, start, length)` (40 R106). -/
def execSelectRange (b : Buffer) (start length : Nat) (s : State) : Outcome :=
  .next (s.unitAnswer bufOut (selectRange b.bits start length))

/-- `select_by_table(b, table)` (40 R107). -/
def execSelectByTable (b : Buffer) (table : List Nat) (s : State) : Outcome :=
  .next (s.unitAnswer bufOut (selectByTable b.bits table))

/-- `rotate_left(b, bit_length, amount)` (40 R108). -/
def execRotateLeft (b : Buffer) (bitLength amount : Nat) (s : State) : Outcome :=
  .next (s.unitAnswer bufOut (rotateLeft b.bits bitLength amount))

/-- `concatenate(a, bit_length_a, b, bit_length_b)` (40 R109). -/
def execConcatenate (a : Buffer) (bitLengthA : Nat) (b : Buffer) (bitLengthB : Nat) (s : State) : Outcome :=
  .next (s.unitAnswer bufOut (concatenate a.bits bitLengthA b.bits bitLengthB))

end Sys2Proof.Machine
end

