-- ==== Sys2Proof/Machine/KeyWrites.lean ====
section
/-! DEFINITION. The two key write beats (42_host_access_and_commands.md R166, R167). They are allowed in IDLE, RUN and
DONE, and refused in ERROR. -/

namespace Sys2Proof.Machine

/-- WR KEY0, v: KEY[j] <- v[31 - j] for j in 0..31, KEYVALID[0] <- 1 (42 R166). -/
def execWrKey0 (v : Word) (s : State) : Outcome :=
  .next (s.unlessError ({ s with key0 := some (keyHalf v), keyvalid := setKey0Valid s.keyvalid }.respond 0#32))

/-- WR KEY1, v: KEY[32 + j] <- v[31 - j] for j in 0..31, KEYVALID[1] <- 1 (42 R167). -/
def execWrKey1 (v : Word) (s : State) : Outcome :=
  .next (s.unlessError ({ s with key1 := some (keyHalf v), keyvalid := setKey1Valid s.keyvalid }.respond 0#32))

end Sys2Proof.Machine
end

