-- ==== Sys2Proof/Machine/Sequencer.lean ====
section
/-! DEFINITION. The sequencer's micro-operations as instructions (41_key_schedule_sequencer.md R133, R134), and the pure
function `derive_subkeys` they compute together (41 R130). -/

namespace Sys2Proof.Machine

/-- ROUND (41 R134): one round in PHASE = RUN with ROUND in 0..15. In every other position the sequencer has no step and
changes nothing (41 R131, 30_encoding.md R86; log 9, log 11). -/
def execRound (s : State) : Outcome :=
  if s.roundReady then microOutcome s.runRound else .next s

/-- LOAD (41 R133): performed where its precondition holds, which START tests before it. Where it fails nothing is
loaded (41 R133, R141; log 9, log 24). -/
def execLoad (s : State) : Outcome :=
  if s.loadReady then microOutcome s.load else .next s

/-- The rounds from the one numbered `r` (0-based) on, `n` of them: step 3 of 41 R130, each round rotating the halves
the round before it left. -/
def roundsFrom (cfg : Config.Tables) : (n r : Nat) → (c d : Buf 28) → Option (List (Buf 48))
  | 0, _, _, _ => some []
  | n + 1, r, c, d =>
    match roundOf cfg r c d with
    | none => none
    | some (c', d', subkey) => (roundsFrom cfg n (r + 1) c' d').map fun rest => subkey :: rest

/-- `derive_subkeys(cfg, master_key)` (41 R130): the sixteen subkeys in round order. A configuration that fails
`tablesOk` is outside its operands and gives `none`, no subkey at all: it is not computed with
(93_implementation_defined.md X20). -/
def deriveSubkeys (cfg : Config.Tables) (key : Buf 64) : Option (List (Buf 48)) :=
  if tablesOk cfg = false then none
  else
    match splitKey cfg key with
    | none => none
    | some (c, d) => roundsFrom cfg 16 0 c d

/-- `S(k)` of 40_bit_buffer_primitives.md R117: the sum of the first `k` entries of SHIFTS. -/
def shiftSum (cfg : Config.Tables) (k : Nat) : Nat := (cfg.shifts.take k).sum

end Sys2Proof.Machine
end

