-- ==== Sys2Proof/Machine/StatusReads.lean ====
section
/-! DEFINITION. The status reads, served in every PHASE and without side effect (42_host_access_and_commands.md R168,
R169), and the debug reads of C and D (42 R170, R171; 60 R221). -/

namespace Sys2Proof.Machine

/-- RD STATUS (42 R168). -/
def execRdStatus (s : State) : Outcome := .next (s.respond s.statusWord)

/-- RD ERRINFO; reading does not clear it (42 R169). -/
def execRdErrinfo (s : State) : Outcome := .next (s.respond s.errinfoWord)

/-- RD DBG_C (42 R170). -/
def execRdDbgC (s : State) : Outcome := .next (s.readInCall PortReg.dbgC.addr s.dbgCWord)

/-- RD DBG_D (42 R171). -/
def execRdDbgD (s : State) : Outcome := .next (s.readInCall PortReg.dbgD.addr s.dbgDWord)

end Sys2Proof.Machine
end

