-- ==== Sys2Proof/Machine/SubkeyReads.lean ====
section
/-! DEFINITION. The result reads RD SKn_HI and RD SKn_LO, n = 0..15 (42_host_access_and_commands.md R172, R173): one
operation for each half, and a definition for each row of the table. -/

namespace Sys2Proof.Machine

/-- RD SKn_HI (42 R172). -/
def readSkHi (n : Fin 16) (s : State) : Outcome := .next (s.readWhenDone (PortReg.skHi n).addr (s.skHiWord n))

/-- RD SKn_LO (42 R173). -/
def readSkLo (n : Fin 16) (s : State) : Outcome := .next (s.readWhenDone (PortReg.skLo n).addr (s.skLoWord n))

/-- RD SK0_HI (42 R172): bits 0..31 of round 1's subkey. -/
def execRdSk0Hi (s : State) : Outcome := readSkHi 0 s

/-- RD SK0_LO (42 R173): bits 32..47 of round 1's subkey. -/
def execRdSk0Lo (s : State) : Outcome := readSkLo 0 s

/-- RD SK1_HI (42 R172): bits 0..31 of round 2's subkey. -/
def execRdSk1Hi (s : State) : Outcome := readSkHi 1 s

/-- RD SK1_LO (42 R173): bits 32..47 of round 2's subkey. -/
def execRdSk1Lo (s : State) : Outcome := readSkLo 1 s

/-- RD SK2_HI (42 R172): bits 0..31 of round 3's subkey. -/
def execRdSk2Hi (s : State) : Outcome := readSkHi 2 s

/-- RD SK2_LO (42 R173): bits 32..47 of round 3's subkey. -/
def execRdSk2Lo (s : State) : Outcome := readSkLo 2 s

/-- RD SK3_HI (42 R172): bits 0..31 of round 4's subkey. -/
def execRdSk3Hi (s : State) : Outcome := readSkHi 3 s

/-- RD SK3_LO (42 R173): bits 32..47 of round 4's subkey. -/
def execRdSk3Lo (s : State) : Outcome := readSkLo 3 s

/-- RD SK4_HI (42 R172): bits 0..31 of round 5's subkey. -/
def execRdSk4Hi (s : State) : Outcome := readSkHi 4 s

/-- RD SK4_LO (42 R173): bits 32..47 of round 5's subkey. -/
def execRdSk4Lo (s : State) : Outcome := readSkLo 4 s

/-- RD SK5_HI (42 R172): bits 0..31 of round 6's subkey. -/
def execRdSk5Hi (s : State) : Outcome := readSkHi 5 s

/-- RD SK5_LO (42 R173): bits 32..47 of round 6's subkey. -/
def execRdSk5Lo (s : State) : Outcome := readSkLo 5 s

/-- RD SK6_HI (42 R172): bits 0..31 of round 7's subkey. -/
def execRdSk6Hi (s : State) : Outcome := readSkHi 6 s

/-- RD SK6_LO (42 R173): bits 32..47 of round 7's subkey. -/
def execRdSk6Lo (s : State) : Outcome := readSkLo 6 s

/-- RD SK7_HI (42 R172): bits 0..31 of round 8's subkey. -/
def execRdSk7Hi (s : State) : Outcome := readSkHi 7 s

/-- RD SK7_LO (42 R173): bits 32..47 of round 8's subkey. -/
def execRdSk7Lo (s : State) : Outcome := readSkLo 7 s

/-- RD SK8_HI (42 R172): bits 0..31 of round 9's subkey. -/
def execRdSk8Hi (s : State) : Outcome := readSkHi 8 s

/-- RD SK8_LO (42 R173): bits 32..47 of round 9's subkey. -/
def execRdSk8Lo (s : State) : Outcome := readSkLo 8 s

/-- RD SK9_HI (42 R172): bits 0..31 of round 10's subkey. -/
def execRdSk9Hi (s : State) : Outcome := readSkHi 9 s

/-- RD SK9_LO (42 R173): bits 32..47 of round 10's subkey. -/
def execRdSk9Lo (s : State) : Outcome := readSkLo 9 s

/-- RD SK10_HI (42 R172): bits 0..31 of round 11's subkey. -/
def execRdSk10Hi (s : State) : Outcome := readSkHi 10 s

/-- RD SK10_LO (42 R173): bits 32..47 of round 11's subkey. -/
def execRdSk10Lo (s : State) : Outcome := readSkLo 10 s

/-- RD SK11_HI (42 R172): bits 0..31 of round 12's subkey. -/
def execRdSk11Hi (s : State) : Outcome := readSkHi 11 s

/-- RD SK11_LO (42 R173): bits 32..47 of round 12's subkey. -/
def execRdSk11Lo (s : State) : Outcome := readSkLo 11 s

/-- RD SK12_HI (42 R172): bits 0..31 of round 13's subkey. -/
def execRdSk12Hi (s : State) : Outcome := readSkHi 12 s

/-- RD SK12_LO (42 R173): bits 32..47 of round 13's subkey. -/
def execRdSk12Lo (s : State) : Outcome := readSkLo 12 s

/-- RD SK13_HI (42 R172): bits 0..31 of round 14's subkey. -/
def execRdSk13Hi (s : State) : Outcome := readSkHi 13 s

/-- RD SK13_LO (42 R173): bits 32..47 of round 14's subkey. -/
def execRdSk13Lo (s : State) : Outcome := readSkLo 13 s

/-- RD SK14_HI (42 R172): bits 0..31 of round 15's subkey. -/
def execRdSk14Hi (s : State) : Outcome := readSkHi 14 s

/-- RD SK14_LO (42 R173): bits 32..47 of round 15's subkey. -/
def execRdSk14Lo (s : State) : Outcome := readSkLo 14 s

/-- RD SK15_HI (42 R172): bits 0..31 of round 16's subkey. -/
def execRdSk15Hi (s : State) : Outcome := readSkHi 15 s

/-- RD SK15_LO (42 R173): bits 32..47 of round 16's subkey. -/
def execRdSk15Lo (s : State) : Outcome := readSkLo 15 s

end Sys2Proof.Machine
end

