-- ==== Sys2Proof/Machine/Dispatch.lean ====
section
/-! DEFINITION. The dispatch of an instruction to its meaning, one arm per constructor of Instr. -/

namespace Sys2Proof.Machine

def exec (i : Instr) (s : State) : Host.Outcome State Fault Refusal :=
  match i with
  | .wrCmdNop => Sys2Proof.Machine.execWrCmdNop s
  | .wrCmdStart => Sys2Proof.Machine.execWrCmdStart s
  | .wrCmdClear => Sys2Proof.Machine.execWrCmdClear s
  | .wrKey0 v => Sys2Proof.Machine.execWrKey0 v s
  | .wrKey1 v => Sys2Proof.Machine.execWrKey1 v s
  | .rdStatus => Sys2Proof.Machine.execRdStatus s
  | .rdErrinfo => Sys2Proof.Machine.execRdErrinfo s
  | .rdDbgC => Sys2Proof.Machine.execRdDbgC s
  | .rdDbgD => Sys2Proof.Machine.execRdDbgD s
  | .rdSk0Hi => Sys2Proof.Machine.execRdSk0Hi s
  | .rdSk0Lo => Sys2Proof.Machine.execRdSk0Lo s
  | .rdSk1Hi => Sys2Proof.Machine.execRdSk1Hi s
  | .rdSk1Lo => Sys2Proof.Machine.execRdSk1Lo s
  | .rdSk2Hi => Sys2Proof.Machine.execRdSk2Hi s
  | .rdSk2Lo => Sys2Proof.Machine.execRdSk2Lo s
  | .rdSk3Hi => Sys2Proof.Machine.execRdSk3Hi s
  | .rdSk3Lo => Sys2Proof.Machine.execRdSk3Lo s
  | .rdSk4Hi => Sys2Proof.Machine.execRdSk4Hi s
  | .rdSk4Lo => Sys2Proof.Machine.execRdSk4Lo s
  | .rdSk5Hi => Sys2Proof.Machine.execRdSk5Hi s
  | .rdSk5Lo => Sys2Proof.Machine.execRdSk5Lo s
  | .rdSk6Hi => Sys2Proof.Machine.execRdSk6Hi s
  | .rdSk6Lo => Sys2Proof.Machine.execRdSk6Lo s
  | .rdSk7Hi => Sys2Proof.Machine.execRdSk7Hi s
  | .rdSk7Lo => Sys2Proof.Machine.execRdSk7Lo s
  | .rdSk8Hi => Sys2Proof.Machine.execRdSk8Hi s
  | .rdSk8Lo => Sys2Proof.Machine.execRdSk8Lo s
  | .rdSk9Hi => Sys2Proof.Machine.execRdSk9Hi s
  | .rdSk9Lo => Sys2Proof.Machine.execRdSk9Lo s
  | .rdSk10Hi => Sys2Proof.Machine.execRdSk10Hi s
  | .rdSk10Lo => Sys2Proof.Machine.execRdSk10Lo s
  | .rdSk11Hi => Sys2Proof.Machine.execRdSk11Hi s
  | .rdSk11Lo => Sys2Proof.Machine.execRdSk11Lo s
  | .rdSk12Hi => Sys2Proof.Machine.execRdSk12Hi s
  | .rdSk12Lo => Sys2Proof.Machine.execRdSk12Lo s
  | .rdSk13Hi => Sys2Proof.Machine.execRdSk13Hi s
  | .rdSk13Lo => Sys2Proof.Machine.execRdSk13Lo s
  | .rdSk14Hi => Sys2Proof.Machine.execRdSk14Hi s
  | .rdSk14Lo => Sys2Proof.Machine.execRdSk14Lo s
  | .rdSk15Hi => Sys2Proof.Machine.execRdSk15Hi s
  | .rdSk15Lo => Sys2Proof.Machine.execRdSk15Lo s
  | .round => Sys2Proof.Machine.execRound s
  | .load => Sys2Proof.Machine.execLoad s
  | .getBit b pos => Sys2Proof.Machine.execGetBit b pos s
  | .setBit b pos value => Sys2Proof.Machine.execSetBit b pos value s
  | .selectRange b start length => Sys2Proof.Machine.execSelectRange b start length s
  | .selectByTable b table => Sys2Proof.Machine.execSelectByTable b table s
  | .rotateLeft b bitLength amount => Sys2Proof.Machine.execRotateLeft b bitLength amount s
  | .concatenate a bitLengthA b bitLengthB => Sys2Proof.Machine.execConcatenate a bitLengthA b bitLengthB s

end Sys2Proof.Machine
end

