-- ==== Sys2Proof/Machine/Fetch.lean ====
section
/-! DEFINITION. What the machine does next: the next event is taken, and it selects an instruction or settles the state
by itself (20_memory.md R60 to R62; log 5). The decoding of a beat, the illegal beats (42_host_access_and_commands.md
R174) and the placing of an instruction are here; Step.lean only calls them. -/

namespace Sys2Proof.Machine

/-- What an event comes to: an instruction to run at a state, or a state with nothing left to do. -/
inductive Selected where
  | run (i : Instr) (s : State)
  | settled (s : State)
  deriving DecidableEq, Repr

/-- The cause an illegal beat reports (30_encoding.md R89, 60 R205, R206). -/
def beatErrorCause : BeatError → Cause
  | .misaligned => .access
  | .unmapped => .access
  | .writeOnly => .access
  | .readOnly => .access
  | .badCommand => .badcmd

/-- Event intake: the event leaves the list, the response outputs and the unit's output are idle until the event sets
them (42 R177; log 6, log 7), and the free index moves on (log 3). -/
def State.takeEvent (s : State) (rest : List Event) : State :=
  { s with inputs := rest, rdata := 0#32, err := false, unitOut := .idle, freeIndex := s.freeIndex + 1 }

/-- What an event selects at a state. A beat selects the instruction it decodes to (30 R82), or offends with its cause,
its address and its direction (42 R174, 60 R205, R206), which in ERROR is a refusal (42 R175). The sequencer's turn
selects what the position decodes to (30 R86), nothing outside RUN (41 R131). Reset gives the reset state (70 R240). -/
def selectEvent (e : Event) (s : State) : Selected :=
  match e with
  | .beat b =>
    match decodeBeat b with
    | .ok i => .run i s
    | .error x => .settled (s.offend (beatErrorCause x) b.addr b.we)
  | .sequencer =>
    match decodePosition s.position with
    | .ok i => .run i s
    | .error _ => .settled s
  | .reset => .settled s.clear

/-- The next event and the list after it. When no event waits it is the sequencer's turn, so that a call in RUN goes on
to DONE (20_memory.md R63). -/
def State.nextEvent (s : State) : Event × List Event :=
  match s.inputs with
  | [] => (.sequencer, [])
  | e :: rest => (e, rest)

/-- The next event taken, and what it selects. -/
def State.select (s : State) : Selected := selectEvent s.nextEvent.1 (s.takeEvent s.nextEvent.2)

/-- The state with the instruction of `nbits` bits whose bits are `w` placed as the next: a beat is put first in the
list of events; a sequencer position is put into PHASE and ROUND, and the sequencer's turn first in the list (log 13). -/
def State.placeWord (s : State) (nbits w : Nat) : State :=
  if (nbits + 7) / 8 = 6 then
    { s with inputs := .beat (Beat.ofBits (BitVec.ofNat 41 w)) :: s.inputs }
  else if (nbits + 7) / 8 = 1 then
    { s with
      phase := Phase.ofCode ((BitVec.ofNat 7 w).extractLsb' 5 2)
      round := (BitVec.ofNat 7 w).extractLsb' 0 5
      inputs := .sequencer :: s.inputs }
  else s

end Sys2Proof.Machine
end

