-- ==== Sys2Proof/Machine/Step.lean ====
section
/-! DEFINITION. One step of the machine: the next event of the order of 20_memory.md R60, and the instruction it selects
run. -/

namespace Sys2Proof.Machine

/-- One step: one host beat, one turn of the sequencer, or one reset. -/
def step (s : State) : Host.Outcome State Fault Refusal :=
  match s.select with
  | .run i t => exec i t
  | .settled t => .next t

/-- `s` with the instruction of `nbits` bits whose bits are `w` as the one `step` takes next (log 13). -/
def State.withFetchWord (s : State) (nbits w : Nat) : State := s.placeWord nbits w

end Sys2Proof.Machine
end

