-- ==== Sys2Proof/Machine/Clock.lean ====
section
/-! DEFINITION. The clocked form of the block at its port signals (42_host_access_and_commands.md R177): in each clock
cycle at most one beat and at most one sequencer step, the beat first (20_memory.md R62). It is made of steps of the
interleaving model, which alone the statements rest on; cycle counts are informative (70_reset_and_hazards.md R253,
log 15, log 19). -/

namespace Sys2Proof.Machine

/-- The input signals of a cycle (42 R177); `clk` is the cycle itself. -/
structure PortIn where
  /-- reset, active low -/
  rstN : Bool
  /-- 1 = a beat is presented this cycle -/
  req : Bool
  we : Bool
  addr : Addr
  wdata : Word
  deriving DecidableEq, Repr

/-- The output signals of a cycle (42 R177). -/
structure PortOut where
  rdata : Word
  err : Bool
  busyO : Bool
  doneO : Bool
  errorO : Bool
  deriving DecidableEq, Repr

/-- The beat a cycle presents. -/
def PortIn.beat (p : PortIn) : Beat := ⟨p.we, p.addr, p.wdata⟩

/-- The outputs at a state: the response held and the level outputs (42 R177, 10_state.md R34). -/
def State.portOut (s : State) : PortOut := ⟨s.rdata, s.err, s.busyO, s.doneO, s.errorO⟩

/-- One event taken now, before those that wait. -/
def runEvent (e : Event) (s : State) : Outcome := step { s with inputs := e :: s.inputs }

/-- The beat is a CLEAR. -/
def isClear (b : Beat) : Bool :=
  match decodeBeat b with
  | .ok i => i = .wrCmdClear
  | .error _ => false

/-- The sequencer step of a cycle after its beat; the response stays the beat's. -/
def sequencerAfterBeat (t : State) : Outcome :=
  match runEvent .sequencer t with
  | .next u => .next { u with rdata := t.rdata, err := t.err }
  | .fault f => .fault f
  | .refused r => .refused r

/-- One clock cycle (20_memory.md R62, 70 R240): reset while `rst_n` is 0, a beat presented then having no effect and no
response; with no beat, the sequencer's turn; with a beat, the beat, and then the sequencer's step exactly when PHASE was
RUN at the start of the cycle and the beat neither faulted nor was a CLEAR. -/
def clockCycle (p : PortIn) (s : State) : Outcome :=
  if p.rstN = false then runEvent .reset s
  else if p.req = false then runEvent .sequencer s
  else
    match runEvent (.beat p.beat) s with
    | .next t =>
      if s.phase = .run ∧ t.err = false ∧ isClear p.beat = false then sequencerAfterBeat t else .next t
    | .fault f => .fault f
    | .refused r => .refused r

end Sys2Proof.Machine
end

