-- ==== Sys2Proof/Machine/HostProgram.lean ====
section
/-! DEFINITION. The notation for host programs: the lines RD and WR (30_encoding.md R92) and the pseudo-instructions with
their expansions (30 R93), as lists of events for the machine's inputs. -/

namespace Sys2Proof.Machine

/-- One line of a host program, or a pseudo-instruction (30_encoding.md R92, R93). -/
inductive HostLine where
  /-- `RD @addr` -/
  | rd (addr : Addr)
  /-- `WR @addr, imm32` -/
  | wr (addr : Addr) (imm : Word)
  | nop
  | start
  | clear
  /-- `LDKEY imm64`: the 8 key bytes as one big-endian number -/
  | ldkey (key : BitVec 64)
  /-- `RDSK n` -/
  | rdsk (n : Fin 16)
  /-- `WAIT`, with the number of polls it takes, which the spec does not fix (93 X25; log 22) -/
  | wait (polls : Nat)
  /-- `RESET`: not a beat -/
  | reset
  /-- `DERIVE imm64`, with the number of polls of its WAIT -/
  | derive (key : BitVec 64) (polls : Nat)
  deriving DecidableEq, Repr

/-- `RD <reg>` as an event. -/
def rdEvent (r : PortReg) : Event := .beat (readBeat r)

/-- `WR <reg>, <imm32>` as an event. -/
def wrEvent (r : PortReg) (v : Word) : Event := .beat (writeBeat r v)

/-- `LDKEY`: WR KEY0 with the high word, then WR KEY1 with the low one. -/
def ldkeyEvents (key : BitVec 64) : List Event :=
  [wrEvent .key0 (key.extractLsb' 32 32), wrEvent .key1 (key.extractLsb' 0 32)]

/-- `RDSK n`: both words of a subkey. -/
def rdskEvents (n : Fin 16) : List Event := [rdEvent (.skHi n), rdEvent (.skLo n)]

/-- The expansion of a line (30_encoding.md R93). -/
def HostLine.events : HostLine → List Event
  | .rd a => [.beat ⟨false, a, 0#32⟩]
  | .wr a v => [.beat ⟨true, a, v⟩]
  | .nop => [wrEvent .cmd 0x0#32]
  | .start => [wrEvent .cmd 0x1#32]
  | .clear => [wrEvent .cmd 0x2#32]
  | .ldkey k => ldkeyEvents k
  | .rdsk n => rdskEvents n
  | .wait polls => List.replicate polls (rdEvent .status)
  | .reset => [.reset]
  | .derive k polls =>
    ldkeyEvents k ++ [wrEvent .cmd 0x1#32] ++ List.replicate polls (rdEvent .status)
      ++ (List.finRange 16).flatMap rdskEvents

/-- The events of a program, in the order the host issues them. -/
def programEvents (p : List HostLine) : List Event := p.flatMap HostLine.events

/-- A list of events is an interleaving of a program with turns of the sequencer (20_memory.md R62). -/
def interleaves (es : List Event) (p : List HostLine) : Bool :=
  (es.filter fun e => e ≠ .sequencer) = programEvents p

/-- The subkey that RDSK's two words make: `rdata_HI[31:0]` followed by `rdata_LO[31:16]` (30_encoding.md R93). -/
def subkeyOfWords (hi lo : Word) : Buf 48 := hi ++ lo.extractLsb' 16 16

end Sys2Proof.Machine
end

