-- ==== Sys2Proof/WellFormed.lean ====
section
/-! DEFINITION. Well-formed instructions: the operands of a primitive meet the precondition its rule states
(40_bit_buffer_primitives.md R104 to R109). The operands of a beat and of a micro-operation are any value, so those are
always well formed. An ill-formed primitive still has a meaning: it answers `fault BOUNDS`. -/

namespace Sys2Proof

/-- The operands meet the instruction's stated precondition. -/
def Instr.wf : Instr → Bool
  | .wrCmdNop => true | .wrCmdStart => true | .wrCmdClear => true
  | .wrKey0 _ => true | .wrKey1 _ => true
  | .rdStatus => true | .rdErrinfo => true | .rdDbgC => true | .rdDbgD => true
  | .rdSk0Hi => true | .rdSk0Lo => true | .rdSk1Hi => true | .rdSk1Lo => true
  | .rdSk2Hi => true | .rdSk2Lo => true | .rdSk3Hi => true | .rdSk3Lo => true
  | .rdSk4Hi => true | .rdSk4Lo => true | .rdSk5Hi => true | .rdSk5Lo => true
  | .rdSk6Hi => true | .rdSk6Lo => true | .rdSk7Hi => true | .rdSk7Lo => true
  | .rdSk8Hi => true | .rdSk8Lo => true | .rdSk9Hi => true | .rdSk9Lo => true
  | .rdSk10Hi => true | .rdSk10Lo => true | .rdSk11Hi => true | .rdSk11Lo => true
  | .rdSk12Hi => true | .rdSk12Lo => true | .rdSk13Hi => true | .rdSk13Lo => true
  | .rdSk14Hi => true | .rdSk14Lo => true | .rdSk15Hi => true | .rdSk15Lo => true
  | .round => true | .load => true
  -- R104, R105: 0 <= pos < declared_bit_length
  | .getBit b pos => decide (pos < b.len)
  | .setBit b pos _ => decide (pos < b.len)
  -- R106: the range lies within the buffer
  | .selectRange b start length => decide (start + length ≤ b.len)
  -- R107: every entry is a 1-based position of the buffer
  | .selectByTable b table => table.all fun e => decide (1 ≤ e) && decide (e ≤ b.len)
  -- R108: 0 <= amount < bit_length, and the rotation domain lies within the buffer
  | .rotateLeft b bitLength amount => decide (bitLength ≤ b.len) && decide (amount < bitLength)
  -- R109: the stated lengths do not exceed the declared ones
  | .concatenate a bitLengthA b bitLengthB => decide (bitLengthA ≤ a.len) && decide (bitLengthB ≤ b.len)

end Sys2Proof
end

