-- ==== Sys2Proof/Safety.lean ====
section
/-! DEFINITION. The terms claims use: a state of a successful run (60_exceptions.md R224), the invariant of the reachable
states (10_state.md R29, R40), and a call that has computed its part of the subkeys of a key (41 R138). -/

namespace Sys2Proof.Machine

/-- The state is one of a successful run so far: PHASE is not ERROR and the last event returned no error (60 R224). -/
def State.Safe (s : State) : Prop := s.phase ≠ .error ∧ s.err = false

/-- The spec's own state (10_state.md R20) and the tables are the same in both. -/
abbrev State.SameRegisters (s t : State) : Prop :=
  t.key0 = s.key0 ∧ t.key1 = s.key1 ∧ t.keyvalid = s.keyvalid ∧ t.c = s.c ∧ t.d = s.d ∧ t.subkey = s.subkey
    ∧ t.phase = s.phase ∧ t.round = s.round ∧ t.cause = s.cause ∧ t.errAddr = s.errAddr ∧ t.errWe = s.errWe
    ∧ t.cfg = s.cfg

/-- `t` is what trap entry with this record makes of `s`, response included (60 R210). -/
abbrev State.EnteredTrap (s t : State) (cause : Cause) (addr : Addr) (we : Bool) : Prop :=
  t.cause = cause ∧ t.errAddr = addr ∧ t.errWe = we ∧ t.phase = .error ∧ t.keyvalid = 0#2
    ∧ t.key0 = none ∧ t.key1 = none ∧ t.c = none ∧ t.d = none ∧ t.subkey = Vector.replicate 16 none
    ∧ t.round = s.round ∧ t.cfg = s.cfg ∧ t.rdata = 0#32 ∧ t.err = true

/-- SUBKEY[i] holds a value exactly for the `i` that `p` tells. -/
abbrev State.holdsExactly (s : State) (p : Nat → Bool) : Prop :=
  ∀ i : Fin 16, s.subkey[i].isSome = p i.val

/-- The invariant of the reachable states (10_state.md R22, R24, R29, R30, R40; 60 R203). -/
structure State.Inv (s : State) : Prop where
  /-- PHASE = IDLE implies ROUND = 0 (R29) -/
  idle_round : s.phase = .idle → s.round = 0#5
  /-- PHASE = RUN implies ROUND in 0..15 (R29) -/
  run_round : s.phase = .run → s.round.toNat < 16
  /-- PHASE = DONE implies ROUND = 16 (R29) -/
  done_round : s.phase = .done → s.round = 16#5
  /-- PHASE = ERROR implies ROUND in 0..16 (R29) -/
  error_round : s.phase = .error → s.round.toNat ≤ 16
  /-- CAUSE is not NONE exactly in ERROR (R30, R40) -/
  cause_iff : s.cause ≠ .none ↔ s.phase = .error
  /-- BOUNDS is never recorded (60 R203) -/
  cause_not_bounds : s.cause ≠ .bounds
  /-- outside ERROR the record is clear (R30, R33) -/
  record_clear : s.phase ≠ .error → s.errAddr = 0#8 ∧ s.errWe = false
  /-- KEYVALID[0] tells whether KEY[0..31] holds a value (R22) -/
  key0_iff : s.keyvalid.getLsbD 0 = s.key0.isSome
  /-- KEYVALID[1] tells whether KEY[32..63] holds a value (R22) -/
  key1_iff : s.keyvalid.getLsbD 1 = s.key1.isSome
  /-- in ERROR no key is held (R40) -/
  error_keyvalid : s.phase = .error → s.keyvalid = 0#2
  /-- C holds a value exactly in RUN and DONE (R24, R40) -/
  c_iff : s.c.isSome = true ↔ s.phase = .run ∨ s.phase = .done
  /-- D holds a value exactly in RUN and DONE (R24, R40) -/
  d_iff : s.d.isSome = true ↔ s.phase = .run ∨ s.phase = .done
  /-- in IDLE and ERROR no subkey holds a value (R25, R40) -/
  subkey_none : s.phase = .idle ∨ s.phase = .error → s.holdsExactly fun _ => false
  /-- in RUN SUBKEY[i] holds a value exactly for i < ROUND (R40) -/
  subkey_run : s.phase = .run → s.holdsExactly fun i => decide (i < s.round.toNat)
  /-- in DONE every SUBKEY[i] holds a value (R40) -/
  subkey_done : s.phase = .done → s.holdsExactly fun _ => true
  /-- a call runs only with tables that START tested (42 R164, 41 R134) -/
  tables : s.phase = .run ∨ s.phase = .done → tablesOk s.cfg = true

/-- The call in progress or finished has computed its first ROUND subkeys of `key`, and its halves are those from which
the remaining rounds give the rest (41 R138). -/
def State.Tracks (key : Buf 64) (s : State) : Prop :=
  ∃ subkeys c d, deriveSubkeys s.cfg key = some subkeys ∧ s.c = some c ∧ s.d = some d
    ∧ roundsFrom s.cfg (16 - s.round.toNat) s.round.toNat c d = some (subkeys.drop s.round.toNat)
    ∧ ∀ i : Fin 16, i.val < s.round.toNat → s.subkey[i] = subkeys[i.val]?

/-- The sixteen instructions RD SKn_HI with their n (42 R172). -/
def skHiReads : List (Instr × Fin 16) :=
  [(.rdSk0Hi, 0), (.rdSk1Hi, 1), (.rdSk2Hi, 2), (.rdSk3Hi, 3),
   (.rdSk4Hi, 4), (.rdSk5Hi, 5), (.rdSk6Hi, 6), (.rdSk7Hi, 7),
   (.rdSk8Hi, 8), (.rdSk9Hi, 9), (.rdSk10Hi, 10), (.rdSk11Hi, 11),
   (.rdSk12Hi, 12), (.rdSk13Hi, 13), (.rdSk14Hi, 14), (.rdSk15Hi, 15)]

/-- The sixteen instructions RD SKn_LO with their n (42 R173). -/
def skLoReads : List (Instr × Fin 16) :=
  [(.rdSk0Lo, 0), (.rdSk1Lo, 1), (.rdSk2Lo, 2), (.rdSk3Lo, 3),
   (.rdSk4Lo, 4), (.rdSk5Lo, 5), (.rdSk6Lo, 6), (.rdSk7Lo, 7),
   (.rdSk8Lo, 8), (.rdSk9Lo, 9), (.rdSk10Lo, 10), (.rdSk11Lo, 11),
   (.rdSk12Lo, 12), (.rdSk13Lo, 13), (.rdSk14Lo, 14), (.rdSk15Lo, 15)]

/-- The four instructions that succeed in ERROR (42 R175). -/
def allowedInError : List Instr := [.rdStatus, .rdErrinfo, .wrCmdNop, .wrCmdClear]

/-- `C` and `D` after `n` rounds from the round numbered `r` on (41 R130 step 3, the running fold). -/
def halvesAfter (cfg : Config.Tables) : (n r : Nat) → (c d : Buf 28) → Option (Buf 28 × Buf 28)
  | 0, _, c, d => some (c, d)
  | n + 1, r, c, d =>
    match roundOf cfg r c d with
    | none => none
    | some (c', d', _) => halvesAfter cfg n (r + 1) c' d'

end Sys2Proof.Machine
end

