-- ==== Sys2Proof/Certificates/Slice0/Obligations.lean ====
section
/-! DEFINITION. The statements for the provers, each from the rules its docstring names. `C`, `D`, `KEY` and SUBKEY[n] are
read through `readC`, `readD`, `readKey` and `readSubkey`; where a register holds `novalue` such a read is a free value
(log 3), so a statement about it holds for every value. -/

open Sys2Proof Sys2Proof.Machine

/-! ### Decoding and encoding -/

/-- 30_encoding.md R81, R84, R86, R88 and the encodings of 95_test_vectors.md: words written out from the spec decode to
the instruction they stand for, at least one for each encoded family. -/
def Obligations.WrittenWordsDecode : Prop :=
  decodeTableWord 41 0x10000000000 = some .wrCmdNop
  ∧ decodeTableWord 41 0x10000000001 = some .wrCmdStart
  ∧ decodeTableWord 41 0x10000000002 = some .wrCmdClear
  ∧ decodeTableWord 41 0x11013345779 = some (.wrKey0 0x13345779#32)
  ∧ decodeTableWord 41 0x1149BBCDFF1 = some (.wrKey1 0x9BBCDFF1#32)
  ∧ decodeTableWord 41 0x00400000000 = some .rdStatus
  ∧ decodeTableWord 41 0x008FFFFFFFF = some .rdErrinfo
  ∧ decodeTableWord 41 0x02000000000 = some .rdDbgC
  ∧ decodeTableWord 41 0x02400000000 = some .rdDbgD
  ∧ decodeTableWord 41 0x0B800000000 = some .rdSk15Hi
  ∧ decodeTableWord 41 0x04C00000000 = some .rdSk1Lo
  ∧ decodeTableWord 7 0b0101111 = some .round
  ∧ decodeTableWord 7 0b0110000 = none
  ∧ decodeTableWord 41 0x10000000003 = none
  ∧ decodeTableWord 41 0x0C000000000 = none

/-- 30 R80, R81, R86, R88: for every instruction that has bits of its own, decoding its encoding gives it back, with every
key word. -/
def Obligations.DecodeEncodeRoundTrip : Prop :=
  ∀ i : Instr, i.hasEncoding = true → decode (encode i) = .ok i

/-- 30 R81, R88: a beat that decodes is the encoding of the instruction it decodes to, in every bit that is decoded:
direction and address always, the data of a write. So no two rows share a beat. -/
def Obligations.DecodedBeatIsItsRow : Prop :=
  ∀ (b : Beat) (i : Instr), decodeBeat b = .ok i →
    ∃ e, encodeBeat i = some e ∧ e.we = b.we ∧ e.addr = b.addr ∧ (b.we = true → e.wdata = b.wdata)

/-- 30 R89 (with the order of R82): every illegal beat is rejected, by the first test it fails, and every other beat decodes. -/
def Obligations.IllegalBeatsAreRejected : Prop :=
  ∀ b : Beat,
    if b.addr.extractLsb' 0 2 ≠ 0#2 then decodeBeat b = .error .misaligned
    else if b.addr = 0x0C#8 ∨ b.addr = 0x18#8 ∨ b.addr = 0x1C#8 ∨ (0x28 ≤ b.addr.toNat ∧ b.addr.toNat ≤ 0x3C)
        ∨ 0xC0 ≤ b.addr.toNat then decodeBeat b = .error .unmapped
    else if b.we = false ∧ (b.addr = 0x00#8 ∨ b.addr = 0x10#8 ∨ b.addr = 0x14#8) then decodeBeat b = .error .writeOnly
    else if b.we = true ∧ ¬ (b.addr = 0x00#8 ∨ b.addr = 0x10#8 ∨ b.addr = 0x14#8) then decodeBeat b = .error .readOnly
    else if b.we = true ∧ b.addr = 0x00#8 ∧ b.wdata ≠ 0#32 ∧ b.wdata ≠ 1#32 ∧ b.wdata ≠ 2#32 then
      decodeBeat b = .error .badCommand
    else ∃ i, decodeBeat b = .ok i

/-! ### The step -/

/-- 20_memory.md R60, R62; 41 R131; logs 3, 5, 6: a step takes the next event; a beat that decodes to `i` makes the step
`exec i` at the state with that event taken; the sequencer's turn, or no event at all, in RUN with ROUND in 0..15 makes it
`exec .round`. -/
def Obligations.StepRunsDecodedInstruction : Prop :=
  (∀ (s : State) (b : Beat) (rest : List Event) (i : Instr),
    s.inputs = .beat b :: rest → decodeBeat b = .ok i → step s = exec i (s.takeEvent rest))
  ∧ (∀ (s : State) (rest : List Event), s.inputs = .sequencer :: rest ∨ (s.inputs = [] ∧ rest = []) →
      s.phase = .run → s.round.toNat < 16 → step s = exec .round (s.takeEvent rest))
  ∧ (∀ (s : State) (rest : List Event), (s.takeEvent rest) =
      { s with inputs := rest, rdata := 0#32, err := false, unitOut := .idle, freeIndex := s.freeIndex + 1 })

/-- 42_host_access_and_commands.md R174, 60_exceptions.md R205, R206: every beat named by no row, when PHASE is not ERROR,
enters the trap: with ACCESS where the address is misaligned or unmapped or the direction is wrong, all 8 address bits
recorded as presented, and with BADCMD where it is WR CMD with a word that is no command. -/
def Obligations.IllegalBeatTraps : Prop :=
  ∀ (s : State) (b : Beat) (rest : List Event), s.inputs = .beat b :: rest → s.phase ≠ .error →
    ((b.addr.extractLsb' 0 2 ≠ 0#2 ∨ b.addr = 0x0C#8 ∨ b.addr = 0x18#8 ∨ b.addr = 0x1C#8
        ∨ (0x28 ≤ b.addr.toNat ∧ b.addr.toNat ≤ 0x3C) ∨ 0xC0 ≤ b.addr.toNat
        ∨ (b.we = false ∧ (b.addr = 0x00#8 ∨ b.addr = 0x10#8 ∨ b.addr = 0x14#8))
        ∨ (b.we = true ∧ b.addr ≠ 0x00#8 ∧ b.addr ≠ 0x10#8 ∧ b.addr ≠ 0x14#8)) →
      ∃ t, step s = .next t ∧ s.EnteredTrap t .access b.addr b.we)
    ∧ (b.we = true → b.addr = 0x00#8 → b.wdata ≠ 0x0#32 → b.wdata ≠ 0x1#32 → b.wdata ≠ 0x2#32 →
      ∃ t, step s = .next t ∧ s.EnteredTrap t .badcmd 0x00#8 true)

/-- 41 R131: in IDLE, DONE and ERROR the sequencer has no step: its turn changes nothing of the block. -/
def Obligations.SequencerIdleOutsideRun : Prop :=
  ∀ s : State, s.nextEvent.1 = .sequencer → s.phase ≠ .run → step s = .next (s.takeEvent s.nextEvent.2)

/-- 70_reset_and_hazards.md R240, R241, 10_state.md R38: reset, enabled in every state, gives the reset state; the tables
stay. -/
def Obligations.ResetEventGivesResetState : Prop :=
  ∀ s : State, s.nextEvent.1 = .reset → ∃ t, step s = .next t
    ∧ t.phase = .idle ∧ t.round = 0#5 ∧ t.keyvalid = 0#2 ∧ t.key0 = none ∧ t.key1 = none ∧ t.c = none ∧ t.d = none
    ∧ (∀ i : Fin 16, t.subkey[i] = none) ∧ t.cause = .none ∧ t.errAddr = 0#8 ∧ t.errWe = false
    ∧ t.busyO = false ∧ t.doneO = false ∧ t.errorO = false ∧ t.statusWord = 0#32 ∧ t.errinfoWord = 0#32
    ∧ t.cfg = s.cfg ∧ t.rdata = 0#32 ∧ t.err = false

/-- 10_state.md R38: the state after reset. The last clause is 40 R110 of the default tables (40 R101 to R103), whose
contents are PRESUMED (log 23). -/
def Obligations.ResetStateValues : Prop :=
  State.reset.phase = .idle ∧ State.reset.round = 0#5 ∧ State.reset.keyvalid = 0#2
  ∧ State.reset.key0 = none ∧ State.reset.key1 = none ∧ State.reset.c = none ∧ State.reset.d = none
  ∧ (∀ i : Fin 16, State.reset.subkey[i] = none)
  ∧ State.reset.cause.code = 0#4 ∧ State.reset.errAddr = 0#8 ∧ State.reset.errWe = false
  ∧ State.reset.statusWord = 0#32 ∧ State.reset.errinfoWord = 0#32
  ∧ State.reset.busyO = false ∧ State.reset.doneO = false ∧ State.reset.errorO = false
  ∧ tablesOk State.reset.cfg = true

/-! ### Commands -/

/-- 42 R163: NOP answers err = 0 and changes no state, in every PHASE. -/
def Obligations.NopChangesNothing : Prop :=
  ∀ s : State, exec .wrCmdNop s = .next { s with rdata := 0#32, err := false }

/-- 42 R165: CLEAR gives every piece of the spec's state its reset value, in every PHASE, with err = 0; and in the clocked
form the sequencer's step of a CLEAR's cycle does not happen. -/
def Obligations.ClearRestoresResetState : Prop :=
  (∀ s : State, ∃ t, exec .wrCmdClear s = .next t
    ∧ t.cfg = s.cfg ∧ t.phase = .idle ∧ t.round = 0#5 ∧ t.keyvalid = 0#2 ∧ t.cause = .none ∧ t.errAddr = 0#8 ∧ t.errWe = false
    ∧ t.key0 = none ∧ t.key1 = none ∧ t.c = none ∧ t.d = none ∧ t.subkey = Vector.replicate 16 none
    ∧ t.busyO = false ∧ t.doneO = false ∧ t.errorO = false ∧ t.rdata = 0#32 ∧ t.err = false)
  ∧ ∀ (p : PortIn) (s : State), p.rstN = true → p.req = true → p.beat = ⟨true, 0x00#8, 0x2#32⟩ →
      clockCycle p s = runEvent (.beat p.beat) s

/-- 42 R164: START's tests in their order, and LOAD when all pass. -/
def Obligations.StartFollowsItsTests : Prop :=
  ∀ s : State,
    if s.phase = .error then exec .wrCmdStart s = .next { s with rdata := 0#32, err := true }
    else if s.phase = .run then exec .wrCmdStart s = .next (s.trap .seq 0x00#8 true)
    else if tablesOk s.cfg = false then exec .wrCmdStart s = .next (s.trap .table 0x00#8 true)
    else if s.keyvalid ≠ 0b11#2 then exec .wrCmdStart s = .next (s.trap .keylen 0x00#8 true)
    else ∃ t, exec .load s = .next t ∧ exec .wrCmdStart s = .next { t with rdata := 0#32, err := false }
      ∧ t.phase = .run ∧ t.busyO = true ∧ t.doneO = false

/-- 41 R133: LOAD, under its precondition: C and D are the two halves of PC1 of KEY, ROUND is 0, PHASE is RUN, the key is
given up and every subkey is withdrawn; nothing else changes; `busy_o` becomes 1 and `done_o` 0. -/
def Obligations.LoadSplitsThePermutedKey : Prop :=
  ∀ s : State, (s.phase = .idle ∨ s.phase = .done) → tablesOk s.cfg = true → s.keyvalid = 0b11#2 →
    ∃ (c d : Buf 28) (t : State), exec .load s = .next t
      ∧ t = { s with
        c := some c, d := some d, round := 0#5, phase := .run, keyvalid := 0#2, key0 := none, key1 := none,
        subkey := Vector.replicate 16 none }
      ∧ t.busyO = true ∧ t.doneO = false
      ∧ (∀ i, i < 28 → bitAt c i = bitAt s.readKey (s.cfg.pc1.getD i 0 - 1))
      ∧ (∀ i, i < 28 → bitAt d i = bitAt s.readKey (s.cfg.pc1.getD (28 + i) 0 - 1))
      ∧ (∀ k0 k1, s.key0 = some k0 → s.key1 = some k1 →
          ∀ i, i < 32 → bitAt s.readKey i = bitAt k0 i ∧ bitAt s.readKey (32 + i) = bitAt k1 i)

/-- Log 9 (DEDUCED from 41 R133 and R141): where LOAD's precondition fails nothing is loaded; and ROUND run outside RUN, or
in RUN with ROUND in 16..31, changes nothing. The model's reading, not a rule's words. -/
def Obligations.UnselectedMicroOpsChangeNothing : Prop :=
  (∀ s : State, ¬ ((s.phase = .idle ∨ s.phase = .done) ∧ tablesOk s.cfg = true ∧ s.keyvalid = 0b11#2) →
    exec .load s = .next s)
  ∧ (∀ s : State, ¬ (s.phase = .run ∧ s.round.toNat < 16) → exec .round s = .next s)

/-- 41 R134: ROUND. Both halves are rotated left by SHIFTS[r] within their own 28 bits, SUBKEY[r] is PC2 of the rotated
halves side by side, ROUND goes up by one, and PHASE becomes DONE with the sixteenth step, `busy_o` then 0 and `done_o` 1;
nothing else changes. -/
def Obligations.RoundComputesOneSubkey : Prop :=
  ∀ s : State, s.phase = .run → s.round.toNat < 16 → tablesOk s.cfg = true →
    ∃ (a : Nat) (c d : Buf 28) (sk : Buf 48) (file : Vector (Option (Buf 48)) 16) (t : State),
      s.cfg.shifts[s.round.toNat]? = some a ∧ (a = 1 ∨ a = 2)
      ∧ exec .round s = .next t
      ∧ t = { s with
          c := some c, d := some d, subkey := file, round := s.round + 1#5,
          phase := if s.round.toNat = 15 then .done else .run }
      ∧ t.round.toNat = s.round.toNat + 1
      ∧ t.doneO = decide (s.round.toNat = 15) ∧ t.busyO = decide (s.round.toNat ≠ 15)
      ∧ (∀ i, i < 28 → bitAt c i = bitAt s.readC ((i + a) % 28))
      ∧ (∀ i, i < 28 → bitAt d i = bitAt s.readD ((i + a) % 28))
      ∧ (∀ i, i < 48 → bitAt sk i =
          if s.cfg.pc2.getD i 0 ≤ 28 then bitAt c (s.cfg.pc2.getD i 0 - 1) else bitAt d (s.cfg.pc2.getD i 0 - 29))
      ∧ (∀ i : Fin 16, file[i] = if i.val = s.round.toNat then some sk else s.subkey[i])

/-! ### Key writes -/

/-- 42 R166, 20_memory.md R52: WR KEY0. -/
def Obligations.WriteKey0SetsItsHalf : Prop :=
  ∀ (v : Word) (s : State),
    (s.phase = .error → exec (.wrKey0 v) s = .next { s with rdata := 0#32, err := true })
    ∧ (s.phase ≠ .error → ∃ (half : Buf 32) (kv : BitVec 2) (t : State),
        exec (.wrKey0 v) s = .next t
        ∧ t = { s with key0 := some half, keyvalid := kv, rdata := 0#32, err := false }
        ∧ (∀ j, j < 32 → bitAt half j = v.getLsbD (31 - j))
        ∧ kv.getLsbD 0 = true ∧ kv.getLsbD 1 = s.keyvalid.getLsbD 1 ∧ t.statusWord.getLsbD 2 = true)

/-- 42 R167, 20_memory.md R52: WR KEY1. -/
def Obligations.WriteKey1SetsItsHalf : Prop :=
  ∀ (v : Word) (s : State),
    (s.phase = .error → exec (.wrKey1 v) s = .next { s with rdata := 0#32, err := true })
    ∧ (s.phase ≠ .error → ∃ (half : Buf 32) (kv : BitVec 2) (t : State),
        exec (.wrKey1 v) s = .next t
        ∧ t = { s with key1 := some half, keyvalid := kv, rdata := 0#32, err := false }
        ∧ (∀ j, j < 32 → bitAt half j = v.getLsbD (31 - j))
        ∧ kv.getLsbD 1 = true ∧ kv.getLsbD 0 = s.keyvalid.getLsbD 0 ∧ t.statusWord.getLsbD 3 = true)

/-! ### Reads -/

/-- 42 R168, 10_state.md R32: RD STATUS, in every PHASE, field by field; nothing but the response changes; and while a call
runs its ROUND never falls, until DONE with ROUND = 16. -/
def Obligations.StatusReadFields : Prop :=
  (∀ s : State, ∃ w : Word, exec .rdStatus s = .next { s with rdata := w, err := false }
    ∧ (w.extractLsb' 0 2 = match s.phase with | .idle => 0#2 | .run => 1#2 | .done => 2#2 | .error => 3#2)
    ∧ w.getLsbD 2 = s.keyvalid.getLsbD 0 ∧ w.getLsbD 3 = s.keyvalid.getLsbD 1
    ∧ w.extractLsb' 4 5 = s.round ∧ w.extractLsb' 9 23 = 0#23)
  ∧ ∀ s t : State, s.phase = .run → s.round.toNat < 16 → step s = .next t →
      (t.phase = .run → s.round.toNat ≤ t.round.toNat) ∧ (t.phase = .done → t.round = 16#5)

/-- 42 R169, 10_state.md R33: RD ERRINFO, in every PHASE, field by field; reading does not clear it; in every reachable
state it is 0 whenever PHASE is not ERROR. -/
def Obligations.ErrinfoReadFields : Prop :=
  ∀ s : State, ∃ w : Word, exec .rdErrinfo s = .next { s with rdata := w, err := false }
    ∧ (w.extractLsb' 0 4 = match s.cause with
        | .none => 0#4 | .keylen => 1#4 | .table => 2#4 | .bounds => 3#4
        | .seq => 4#4 | .badcmd => 5#4 | .access => 6#4 | .notready => 7#4)
    ∧ w.getLsbD 4 = s.errWe ∧ w.extractLsb' 5 3 = 0#3 ∧ w.extractLsb' 8 8 = s.errAddr ∧ w.extractLsb' 16 16 = 0#16
    ∧ (s.Inv → s.phase ≠ .error → w = 0#32)

/-- 42 R170, R171: RD DBG_C and RD DBG_D: the half in word bits [31:4] in RUN and DONE, NOTREADY in IDLE, refused in
ERROR. -/
def Obligations.DebugReadsShowTheHalves : Prop :=
  ∀ s : State,
    ((s.phase = .run ∨ s.phase = .done) → ∃ wc wd : Word,
      exec .rdDbgC s = .next { s with rdata := wc, err := false }
      ∧ exec .rdDbgD s = .next { s with rdata := wd, err := false }
      ∧ (∀ j, j < 28 → wc.getLsbD (31 - j) = bitAt s.readC j) ∧ wc.extractLsb' 0 4 = 0#4
      ∧ (∀ j, j < 28 → wd.getLsbD (31 - j) = bitAt s.readD j) ∧ wd.extractLsb' 0 4 = 0#4)
    ∧ (s.phase = .idle → exec .rdDbgC s = .next (s.trap .notready 0x20#8 false)
        ∧ exec .rdDbgD s = .next (s.trap .notready 0x24#8 false))
    ∧ (s.phase = .error → exec .rdDbgC s = .next { s with rdata := 0#32, err := true }
        ∧ exec .rdDbgD s = .next { s with rdata := 0#32, err := true })

/-- 42 R172: RD SK0_HI to RD SK15_HI: subkey bits 0..31 in DONE, NOTREADY in IDLE and RUN, refused in ERROR; and no step
that stays in DONE changes a subkey, so that two beats read one subkey consistently. -/
def Obligations.SubkeyHighReads : Prop :=
  (∀ (s : State) (i : Instr) (n : Fin 16), (i, n) ∈ skHiReads →
    (s.phase = .done → ∃ w : Word, exec i s = .next { s with rdata := w, err := false }
      ∧ ∀ j, j < 32 → w.getLsbD (31 - j) = bitAt (s.readSubkey n) j)
    ∧ ((s.phase = .idle ∨ s.phase = .run) →
        exec i s = .next (s.trap .notready (BitVec.ofNat 8 (0x40 + 8 * n.val)) false))
    ∧ (s.phase = .error → exec i s = .next { s with rdata := 0#32, err := true }))
  ∧ ∀ s t : State, s.phase = .done → step s = .next t → t.phase = .done → t.subkey = s.subkey

/-- 42 R173: RD SK0_LO to RD SK15_LO: subkey bits 32..47 in word bits [31:16], zeros below, in DONE; NOTREADY in IDLE and
RUN, refused in ERROR. -/
def Obligations.SubkeyLowReads : Prop :=
  ∀ (s : State) (i : Instr) (n : Fin 16), (i, n) ∈ skLoReads →
    (s.phase = .done → ∃ w : Word, exec i s = .next { s with rdata := w, err := false }
      ∧ (∀ j, j < 16 → w.getLsbD (31 - j) = bitAt (s.readSubkey n) (32 + j)) ∧ w.extractLsb' 0 16 = 0#16)
    ∧ ((s.phase = .idle ∨ s.phase = .run) →
        exec i s = .next (s.trap .notready (BitVec.ofNat 8 (0x44 + 8 * n.val)) false))
    ∧ (s.phase = .error → exec i s = .next { s with rdata := 0#32, err := true })

/-- 20_memory.md R58 (its part on reads): a read beat that does not fault changes nothing but the response. -/
def Obligations.ServedReadsHaveNoSideEffect : Prop :=
  ∀ (s t : State) (b : Beat) (rest : List Event), s.inputs = .beat b :: rest → b.we = false →
    step s = .next t → t.err = false → t = { s.takeEvent rest with rdata := t.rdata }

/-! ### Errors -/

/-- 60_exceptions.md R210: trap entry, field by field. -/
def Obligations.TrapEntryRecordsAndWithdraws : Prop :=
  ∀ (s : State) (cause : Cause) (addr : Addr) (we : Bool), s.phase ≠ .error →
    s.offend cause addr we = { s with
      cause := cause, errAddr := addr, errWe := we, phase := .error, keyvalid := 0#2,
      key0 := none, key1 := none, c := none, d := none, subkey := Vector.replicate 16 none,
      rdata := 0#32, err := true }
    ∧ s.offend cause addr we = s.trap cause addr we
    ∧ (s.offend cause addr we).errorO = true ∧ (s.offend cause addr we).busyO = false
    ∧ (s.offend cause addr we).doneO = false

/-- 60 R209, R210, 70 R248: a beat from a PHASE other than ERROR either answers err = 0 and leaves PHASE out of ERROR, or
answers err = 1, and then it has done nothing but trap entry with its own address and direction. -/
def Obligations.FaultingBeatOnlyEntersTrap : Prop :=
  ∀ (s t : State) (b : Beat) (rest : List Event), s.inputs = .beat b :: rest → s.phase ≠ .error → step s = .next t →
    (t.err = true → s.EnteredTrap t t.cause b.addr b.we ∧ t.cause ≠ .none ∧ t.cause ≠ .bounds)
    ∧ (t.err = false → t.phase ≠ .error)

/-- 42 R175: in ERROR exactly RD STATUS, RD ERRINFO, NOP and CLEAR succeed; every other beat, legal or illegal elsewhere,
answers (0, 1) and changes no state at all. -/
def Obligations.ErrorRefusesAllButFour : Prop :=
  (∀ (s : State) (i : Instr), s.phase = .error → i ∈ allowedInError → ∃ t, exec i s = .next t ∧ t.err = false)
  ∧ (∀ (s : State) (i : Instr), s.phase = .error → (encodeBeat i).isSome = true → i ∉ allowedInError →
      exec i s = .next { s with rdata := 0#32, err := true })
  ∧ (∀ (s : State) (b : Beat) (rest : List Event) (e : BeatError), s.phase = .error → s.inputs = .beat b :: rest →
      decodeBeat b = .error e → ∃ t, step s = .next t ∧ s.SameRegisters t ∧ t.rdata = 0#32 ∧ t.err = true)

/-- 42 R176: the response: with err = 1 rdata is 0, and a write answers rdata = 0 always. -/
def Obligations.NoDataWithAFailure : Prop :=
  ∀ (s t : State) (b : Beat) (rest : List Event), s.inputs = .beat b :: rest → step s = .next t →
    (t.err = true → t.rdata = 0#32) ∧ (b.we = true → t.rdata = 0#32)

/-- 60 R213 (with R212): ERROR is left only by CLEAR or reset, and until then the first cause stays recorded. -/
def Obligations.ErrorIsSticky : Prop :=
  ∀ s t : State, s.phase = .error → step s = .next t →
    (t.phase = .error ∧ t.cause = s.cause ∧ t.errAddr = s.errAddr ∧ t.errWe = s.errWe ∧ t.round = s.round
      ∧ t.keyvalid = s.keyvalid ∧ t.key0 = s.key0 ∧ t.key1 = s.key1 ∧ t.c = s.c ∧ t.d = s.d ∧ t.subkey = s.subkey)
    ∨ (t.phase = .idle ∧ t.cause = .none
      ∧ (s.nextEvent.1 = .reset ∨ s.nextEvent.1 = .beat ⟨true, 0x00#8, 0x2#32⟩))

/-- 10_state.md R28: PHASE moves only as its table lists. -/
def Obligations.PhaseMovesOnlyAsListed : Prop :=
  ∀ s t : State, step s = .next t → t.phase ≠ s.phase →
    (t.phase = .run ∧ (s.phase = .idle ∨ s.phase = .done) ∧ s.nextEvent.1 = .beat ⟨true, 0x00#8, 0x1#32⟩
      ∧ tablesOk s.cfg = true ∧ s.keyvalid = 0b11#2)
    ∨ (t.phase = .done ∧ s.phase = .run ∧ s.round = 15#5 ∧ s.nextEvent.1 = .sequencer)
    ∨ (t.phase = .error ∧ t.err = true ∧ ∃ b, s.nextEvent.1 = .beat b)
    ∨ (t.phase = .idle ∧ (s.nextEvent.1 = .reset ∨ s.nextEvent.1 = .beat ⟨true, 0x00#8, 0x2#32⟩))

/-- 10_state.md R34: the level outputs follow PHASE, at most one is 1, and all are 0 in IDLE. -/
def Obligations.LevelOutputsFollowPhase : Prop :=
  ∀ s : State, (s.busyO = true ↔ s.phase = .run) ∧ (s.doneO = true ↔ s.phase = .done) ∧ (s.errorO = true ↔ s.phase = .error)
    ∧ ¬ (s.busyO = true ∧ s.doneO = true) ∧ ¬ (s.busyO = true ∧ s.errorO = true) ∧ ¬ (s.doneO = true ∧ s.errorO = true)
    ∧ (s.phase = .idle → s.busyO = false ∧ s.doneO = false ∧ s.errorO = false)

/-! ### Invariants over every step -/

/-- 10_state.md R29, R40: the invariant holds after reset. -/
def Obligations.InvAtReset : Prop := State.reset.Inv

/-- 10_state.md R22, R24, R29, R30, R40, 60 R203: every step of either agent, and reset, keeps the invariant. -/
def Obligations.InvKeptByEveryStep : Prop :=
  ∀ s t : State, s.Inv → step s = .next t → t.Inv

/-- 10_state.md R26, 70 R241: no beat, command, micro-operation, primitive or reset writes the tables. -/
def Obligations.TablesNeverWritten : Prop :=
  (∀ s t : State, step s = .next t → t.cfg = s.cfg)
  ∧ (∀ (i : Instr) (s t : State), exec i s = .next t → t.cfg = s.cfg)

/-- 70 R252, 41 R134: no hang and no stop: every step answers a next state, in every state in which a running call has
tables that START has tested. -/
def Obligations.EveryStepAnswers : Prop :=
  ∀ s : State, (s.phase = .run → tablesOk s.cfg = true) → ∃ t, step s = .next t

/-- 20_memory.md R63, 41 R140: in RUN a beat that is no CLEAR and does not fault writes none of C, D, SUBKEY, ROUND, PHASE. -/
def Obligations.HarmlessBeatsInRun : Prop :=
  ∀ (s t : State) (b : Beat) (rest : List Event), s.inputs = .beat b :: rest → s.phase = .run → step s = .next t →
    t.err = false → b ≠ ⟨true, 0x00#8, 0x2#32⟩ →
      t.c = s.c ∧ t.d = s.d ∧ t.subkey = s.subkey ∧ t.round = s.round ∧ t.phase = .run

/-- 10_state.md R21: the key is read only by LOAD: whatever the two halves of KEY hold, a step that is no START does the
same and answers the same, KEY itself apart. -/
def Obligations.KeyIsReadOnlyByLoad : Prop :=
  ∀ (s t : State) (k0 k1 : Option (Buf 32)), s.nextEvent.1 ≠ .beat ⟨true, 0x00#8, 0x1#32⟩ → step s = .next t →
    ∃ t', step { s with key0 := k0, key1 := k1 } = .next t' ∧ { t' with key0 := t.key0, key1 := t.key1 } = t

/-! ### Whole calls -/

/-- 41 R132, 20_memory.md R63, 70 R254: a call that no event interrupts reaches DONE after exactly the sequencer steps its
rounds still owe. -/
def Obligations.RemainingRoundsReachDone : Prop :=
  ∀ s : State, s.phase = .run → s.round.toNat < 16 → tablesOk s.cfg = true → s.inputs = [] →
    (∃ t, Sys2Proof.core.run (16 - s.round.toNat) s = .next t ∧ t.phase = .done ∧ t.round = 16#5)
    ∧ ∀ k t, k < 16 - s.round.toNat → Sys2Proof.core.run k s = .next t → t.phase = .run

/-- 41 R138, by its own induction: while a call runs, a step that leaves it in RUN or takes it to DONE keeps it a call that
has computed its first ROUND subkeys of its key. -/
def Obligations.TrackingKeptWhileRunning : Prop :=
  ∀ (key : Buf 64) (s t : State), s.phase = .run → s.round.toNat < 16 → s.Tracks key → step s = .next t →
    (t.phase = .run ∨ t.phase = .done) → t.Tracks key

/-- 41 R138: if START is accepted with KEY = K and the call is not cut short (it stays in RUN until DONE), then, whatever
else the host did in between, the subkeys in DONE are those of `derive_subkeys`, C and D are the halves of PC1 of K, and
ROUND = 16. -/
def Obligations.CallYieldsDerivedSubkeys : Prop :=
  ∀ (s t : State) (rest : List Event) (k0 k1 : Buf 32) (n : Nat),
    s.inputs = .beat ⟨true, 0x00#8, 0x1#32⟩ :: rest → (s.phase = .idle ∨ s.phase = .done) → tablesOk s.cfg = true →
    s.keyvalid = 0b11#2 → s.key0 = some k0 → s.key1 = some k1 →
    (∀ m u, 1 ≤ m → m < n → Sys2Proof.core.run m s = .next u → u.phase = .run) →
    Sys2Proof.core.run n s = .next t → 1 ≤ n → t.phase = .done →
      ∃ subkeys c d, deriveSubkeys s.cfg (k0 ++ k1) = some subkeys ∧ splitKey s.cfg (k0 ++ k1) = some (c, d)
        ∧ subkeys.length = 16 ∧ (∀ i : Fin 16, t.subkey[i] = subkeys[i.val]?)
        ∧ t.c = some c ∧ t.d = some d ∧ t.round = 16#5

/-- 41 R140: two calls with the same key and tables give the same subkeys, whatever the host did while they ran and whatever
the calls before them left. -/
def Obligations.SameKeySameSubkeys : Prop :=
  ∀ (s s' t t' : State) (rest rest' : List Event) (k0 k1 : Buf 32) (n n' : Nat),
    s.inputs = .beat ⟨true, 0x00#8, 0x1#32⟩ :: rest → s'.inputs = .beat ⟨true, 0x00#8, 0x1#32⟩ :: rest' →
    (s.phase = .idle ∨ s.phase = .done) → (s'.phase = .idle ∨ s'.phase = .done) →
    tablesOk s.cfg = true → s'.cfg = s.cfg → s.keyvalid = 0b11#2 → s'.keyvalid = 0b11#2 →
    s.key0 = some k0 → s.key1 = some k1 → s'.key0 = some k0 → s'.key1 = some k1 →
    (∀ m u, 1 ≤ m → m < n → Sys2Proof.core.run m s = .next u → u.phase = .run) →
    (∀ m u, 1 ≤ m → m < n' → Sys2Proof.core.run m s' = .next u → u.phase = .run) →
    Sys2Proof.core.run n s = .next t → Sys2Proof.core.run n' s' = .next t' → 1 ≤ n → 1 ≤ n' →
    t.phase = .done → t'.phase = .done → t'.subkey = t.subkey ∧ t'.c = t.c ∧ t'.d = t.d

/-- 70 R243, 30 R93: the shortest correct use: LDKEY, START, and sixteen sequencer steps. That an empty list of events is
the sequencer's turn is the model's choice (log 5); `err` is that of the last step, which is no beat. -/
def Obligations.DeriveFromHostProgram : Prop :=
  ∀ (s : State) (key : BitVec 64), (s.phase = .idle ∨ s.phase = .done) → tablesOk s.cfg = true →
    s.inputs = programEvents [.ldkey key, .start] →
      ∃ t subkeys, Sys2Proof.core.run 19 s = .next t ∧ t.phase = .done ∧ t.err = false
        ∧ deriveSubkeys s.cfg key = some subkeys ∧ ∀ i : Fin 16, t.subkey[i] = subkeys[i.val]?

/-- 30 R93 (RDSK), 42 R172, R173: in DONE the two words of a subkey make the subkey again. -/
def Obligations.ReadSubkeyReassembles : Prop :=
  ∀ (s : State) (n : Fin 16) (sk : Buf 48), s.phase = .done → s.subkey[n] = some sk →
    ∃ t u, exec (rdSkHi n) s = .next t ∧ exec (rdSkLo n) t = .next u ∧ subkeyOfWords t.rdata u.rdata = sk

/-- 10_state.md R41, 40 R117: for every well-formed configuration the halves after sixteen rounds are those before the
first. -/
def Obligations.HalvesReturnAfterSixteenRounds : Prop :=
  ∀ (cfg : Config.Tables) (c d : Buf 28), tablesOk cfg = true → halvesAfter cfg 16 0 c d = some (c, d)

/-- 41 R139: each subkey in closed form, PC2 of the first halves rotated by the cumulative amount; and, with the default
tables (whose contents are PRESUMED, log 23), subkey bits 0..23 depend only on the first C and bits 24..47 only on the
first D. -/
def Obligations.SubkeyClosedForm : Prop :=
  (∀ (cfg : Config.Tables) (key : Buf 64) (c d : Buf 28) (k : Fin 16), tablesOk cfg = true → splitKey cfg key = some (c, d) →
    ∃ subkeys sk rc rd cd,
      deriveSubkeys cfg key = some subkeys ∧ subkeys[k.val]? = some sk
      ∧ rotateLeft c 28 (shiftSum cfg (k.val + 1) % 28) = some rc
      ∧ rotateLeft d 28 (shiftSum cfg (k.val + 1) % 28) = some rd
      ∧ concatenate rc 28 rd 28 = some cd
      ∧ (selectByTable cd cfg.pc2).bind (ofLength 48) = some sk)
  ∧ (∀ (key key' : Buf 64) (c d c' d' : Buf 28) (subkeys subkeys' : List (Buf 48)) (k : Fin 16) (sk sk' : Buf 48),
      splitKey defaultTables key = some (c, d) → splitKey defaultTables key' = some (c', d') →
      deriveSubkeys defaultTables key = some subkeys → deriveSubkeys defaultTables key' = some subkeys' →
      subkeys[k.val]? = some sk → subkeys'[k.val]? = some sk' →
        (c = c' → ∀ i, i < 24 → bitAt sk i = bitAt sk' i)
        ∧ (d = d' → ∀ i, 24 ≤ i → i < 48 → bitAt sk i = bitAt sk' i))

/-- 41 R130, 93_implementation_defined.md X20: `derive_subkeys` gives sixteen subkeys for every key under tables that
satisfy `tablesOk`, and no subkey at all under any others. -/
def Obligations.DerivedOnlyUnderGoodTables : Prop :=
  ∀ (cfg : Config.Tables) (key : Buf 64),
    (tablesOk cfg = true → ∃ subkeys, deriveSubkeys cfg key = some subkeys ∧ subkeys.length = 16)
    ∧ (tablesOk cfg = false → deriveSubkeys cfg key = none)

/-- 40 R115: with the default tables the least significant bit of each key byte does not matter. -/
def Obligations.ParityBitsDropped : Prop :=
  ∀ k k' : Buf 64, (∀ i, i < 64 → i % 8 ≠ 7 → bitAt k i = bitAt k' i) →
    deriveSubkeys defaultTables k = deriveSubkeys defaultTables k'

/-- 95_test_vectors.md V1 (the source's known answer for round 1, and the derived fifteen): the test key's subkeys. -/
def Obligations.KnownAnswer : Prop :=
  deriveSubkeys defaultTables 0x133457799BBCDFF1#64 = some
    [0x1B02EFFC7072#48, 0x79AED9DBC9E5#48, 0x55FC8A42CF99#48, 0x72ADD6DB351D#48,
     0x7CEC07EB53A8#48, 0x63A53E507B2F#48, 0xEC84B7F618BC#48, 0xF78A3AC13BFB#48,
     0xE0DBEBEDE781#48, 0xB1F347BA464F#48, 0x215FD3DED386#48, 0x7571F59467E9#48,
     0x97C5D1FABA41#48, 0x5F43B7F2E73A#48, 0xBF918D3D3F0A#48, 0xCB3D8B0E17F5#48]

/-! ### The primitives -/

/-- 40 R104: get_bit. That a primitive performed on its own presents its answer on the unit's output is the model's choice
(log 7); the answer is the rule's. -/
def Obligations.GetBitReadsOneBit : Prop :=
  ∀ (b : Buffer) (pos : Nat) (s : State),
    (pos < b.len → exec (.getBit b pos) s = .next { s with unitOut := .bit (bitAt b.bits pos) })
    ∧ (b.len ≤ pos → exec (.getBit b pos) s = .next { s with unitOut := .bounds })

/-- 40 R105: set_bit (the unit's output: log 7). -/
def Obligations.SetBitChangesOneBit : Prop :=
  ∀ (b : Buffer) (pos : Nat) (v : Bool) (s : State),
    (pos < b.len → ∃ r : Buf b.len, exec (.setBit b pos v) s = .next { s with unitOut := .buf ⟨b.len, r⟩ }
      ∧ bitAt r pos = v ∧ ∀ i, i < b.len → i ≠ pos → bitAt r i = bitAt b.bits i)
    ∧ (b.len ≤ pos → exec (.setBit b pos v) s = .next { s with unitOut := .bounds })

/-- 40 R106: select_range (the unit's output: log 7). -/
def Obligations.SelectRangeCopiesBits : Prop :=
  ∀ (b : Buffer) (start length : Nat) (s : State),
    (start + length ≤ b.len → ∃ r : Buf length,
      exec (.selectRange b start length) s = .next { s with unitOut := .buf ⟨length, r⟩ }
      ∧ ∀ i, i < length → bitAt r i = bitAt b.bits (start + i))
    ∧ (b.len < start + length → exec (.selectRange b start length) s = .next { s with unitOut := .bounds })

/-- 40 R107: select_by_table (the unit's output: log 7). -/
def Obligations.SelectByTablePermutesBits : Prop :=
  ∀ (b : Buffer) (table : List Nat) (s : State),
    ((∀ e ∈ table, 1 ≤ e ∧ e ≤ b.len) → ∃ r : Buf table.length,
      exec (.selectByTable b table) s = .next { s with unitOut := .buf ⟨table.length, r⟩ }
      ∧ ∀ i (hi : i < table.length), bitAt r i = bitAt b.bits (table[i] - 1))
    ∧ ((∃ e ∈ table, e < 1 ∨ b.len < e) → exec (.selectByTable b table) s = .next { s with unitOut := .bounds })

/-- 40 R108: rotate_left (the unit's output: log 7). -/
def Obligations.RotateLeftRotatesTheDomain : Prop :=
  ∀ (b : Buffer) (bitLength amount : Nat) (s : State),
    (bitLength ≤ b.len ∧ amount < bitLength → ∃ r : Buf bitLength,
      exec (.rotateLeft b bitLength amount) s = .next { s with unitOut := .buf ⟨bitLength, r⟩ }
      ∧ ∀ i, i < bitLength → bitAt r i = bitAt b.bits ((i + amount) % bitLength))
    ∧ (b.len < bitLength ∨ bitLength ≤ amount →
        exec (.rotateLeft b bitLength amount) s = .next { s with unitOut := .bounds })

/-- 40 R109: concatenate (the unit's output: log 7). -/
def Obligations.ConcatenateJoinsBits : Prop :=
  ∀ (a : Buffer) (la : Nat) (b : Buffer) (lb : Nat) (s : State),
    (la ≤ a.len ∧ lb ≤ b.len → ∃ r : Buf (la + lb),
      exec (.concatenate a la b lb) s = .next { s with unitOut := .buf ⟨la + lb, r⟩ }
      ∧ (∀ i, i < la → bitAt r i = bitAt a.bits i) ∧ ∀ j, j < lb → bitAt r (la + j) = bitAt b.bits j)
    ∧ (a.len < la ∨ b.len < lb → exec (.concatenate a la b lb) s = .next { s with unitOut := .bounds })

/-- 60 R203, 40 R104 to R109: a primitive answers `fault BOUNDS` exactly when its operands are ill formed. -/
def Obligations.IllFormedPrimitivesAnswerBounds : Prop :=
  ∀ (i : Instr) (s : State), i.hasEncoding = false → i ≠ .load →
    ∃ t, exec i s = .next t ∧ (t.unitOut = .bounds ↔ i.wf = false) ∧ t = { s with unitOut := t.unitOut }

/-- 40 R111: an identity table returns the first `m` bits, and the whole buffer when `m = n`. -/
def Obligations.IdentityTableTruncates : Prop :=
  ∀ (n m : Nat) (b : Buf n), m ≤ n →
    ∃ r : Buf m, selectRange b 0 m = some r
      ∧ (selectByTable b ((List.range m).map (· + 1))).bind (ofLength m) = some r
      ∧ ∀ i, i < m → bitAt r i = bitAt b i

/-- 40 R112: rotations compose by adding amounts; amounts that sum to a multiple of the length restore the buffer. -/
def Obligations.RotationsCompose : Prop :=
  ∀ (n a1 a2 : Nat) (b : Buf n), a1 < n → a2 < n →
    (rotateLeft b n a1).bind (fun r => rotateLeft r n a2) = rotateLeft b n ((a1 + a2) % n)
    ∧ ((a1 + a2) % n = 0 → (rotateLeft b n a1).bind (fun r => rotateLeft r n a2) = some b)

/-- 40 R100, 20_memory.md R50: the byte image: ceil(n / 8) bytes, MSB-first, with zero padding. -/
def Obligations.ByteImagePadsWithZeros : Prop :=
  ∀ (n : Nat) (b : Buf n), (byteImage b).length = (n + 7) / 8
    ∧ ∀ (j : Nat) (hj : j < (byteImage b).length) (k : Nat), k < 8 →
        (byteImage b)[j].getLsbD (7 - k) = if 8 * j + k < n then bitAt b (8 * j + k) else false

/-- 20_memory.md R51: pack32. -/
def Obligations.PackedWordBits : Prop :=
  ∀ (n : Nat) (b : Buf n) (off j : Nat), j < 32 →
    (pack32 b off).getLsbD (31 - j) = if off + j < n then bitAt b (off + j) else false

/-! ### The clocked form -/

/-- 20_memory.md R62, 70 R240, 42 R177: what a clock cycle is, in steps of the interleaving model: reset; with no beat the
sequencer's turn; with a beat, the beat, and after it the sequencer's step exactly when PHASE was RUN at the start of the
cycle and the beat neither faulted nor was a CLEAR, the response being the beat's. That a cycle of reset is one reset
event (log 14) and that the cycle's response is its beat's (log 19) are read from the rules by inference (DEDUCED). -/
def Obligations.ClockCycleIsAnInterleaving : Prop :=
  ∀ (p : PortIn) (s t : State), clockCycle p s = .next t →
    if p.rstN = false then Sys2Proof.core.run 1 { s with inputs := .reset :: s.inputs } = .next t
    else if p.req = false then Sys2Proof.core.run 1 { s with inputs := .sequencer :: s.inputs } = .next t
    else ∃ b : State, Sys2Proof.core.run 1 { s with inputs := .beat p.beat :: s.inputs } = .next b
      ∧ t.rdata = b.rdata ∧ t.err = b.err
      ∧ if s.phase = .run ∧ b.err = false ∧ p.beat ≠ ⟨true, 0x00#8, 0x2#32⟩ then
          ∃ u : State, Sys2Proof.core.run 2 { s with inputs := .beat p.beat :: .sequencer :: s.inputs } = .next u
            ∧ t = { u with rdata := b.rdata, err := b.err }
        else t = b
end

