-- ==== Sys2Proof/Laws/Buffer.lean ====
section
/-! SUPPORT. The bits of a buffer built by each primitive: with `bitAt_bufOf` and `buf_ext` two buffers are compared bit
by bit, and no later proof unfolds a primitive. -/

namespace Sys2Proof.Machine

/-- A bit beyond the declared length is 0. -/
theorem bitAt_of_le (b : Buf n) (h : n ≤ i) : bitAt b i = false := by
  simp [bitAt, BitVec.getMsbD, Nat.not_lt.mpr h]

/-- The bits of a comprehension. -/
@[simp] theorem bitAt_bufOf (n : Nat) (f : Nat → Bool) (i : Nat) :
    bitAt (bufOf n f) i = (decide (i < n) && f i) := by
  induction n with
  | zero => simp [bufOf, bitAt]
  | succ n ih =>
    have ih' : (bufOf n f).getMsbD i = (decide (i < n) && f i) := ih
    simp only [bitAt, bufOf, BitVec.getMsbD_concat]
    by_cases h : i < n
    · have h1 : i < n + 1 := by omega
      simp [h, h1, ih']
    · by_cases h2 : i = n
      · subst h2; simp
      · have h3 : ¬ i < n + 1 := by omega
        simp [h, h2, h3]

/-- Buffers with equal bits are equal. -/
theorem buf_ext {a b : Buf n} (h : ∀ i, i < n → bitAt a i = bitAt b i) : a = b := by
  apply BitVec.eq_of_getMsbD_eq
  intro i hi
  exact h i hi

/-- A comprehension over a buffer's own bits is the buffer. -/
theorem bufOf_bitAt (b : Buf n) : bufOf n (bitAt b) = b := by
  apply buf_ext
  intro i hi
  simp [hi]

/-- Comprehensions whose bits agree are equal. -/
theorem bufOf_congr {f g : Nat → Bool} (h : ∀ i, i < n → f i = g i) : bufOf n f = bufOf n g := by
  apply buf_ext
  intro i hi
  simp [hi, h i hi]

/-- Buffer index `i` of a word is word bit `31 - i` (20_memory.md R51). -/
theorem bitAt_word (w : Word) (h : i < 32) : bitAt w i = w.getLsbD (31 - i) := by
  have h2 : 32 - 1 - i = 31 - i := by omega
  simp [bitAt, BitVec.getMsbD, h]

/-- Unpacking a word keeps its bits in place. -/
@[simp] theorem unpack32_eq (w : Word) : unpack32 w = w := by
  apply buf_ext
  intro i hi
  rw [unpack32, bitAt_bufOf, bitAt_word w hi]
  simp [hi]

/-- The bits of a packed word (20_memory.md R51). -/
theorem bitAt_pack32 (b : Buf n) (off i : Nat) :
    bitAt (pack32 b off) i = (decide (i < 32) && (decide (off + i < n) && bitAt b (off + i))) := by
  simp [pack32]

/-- The bits of two buffers side by side. -/
theorem bitAt_append (a : Buf n) (b : Buf m) (i : Nat) :
    bitAt (a ++ b) i = if i < n then bitAt a i else bitAt b (i - n) := by
  simp only [bitAt, BitVec.getMsbD_append]
  by_cases h : i < n
  · have : ¬ n ≤ i := by omega
    simp [h, this]
  · have : n ≤ i := by omega
    simp [h, this]

/-- Two equal buffers have equal bits; the length is a side condition of use only. -/
theorem bitAt_cast (h : n = m) (b : Buf n) (i : Nat) : bitAt (b.cast h) i = bitAt b i := by
  subst h; rfl

/-! ### The primitives -/

/-- A bit of a byte of the image is the buffer's bit, or padding, which is zero (40 R100). -/
theorem bitAt_imageByte (b : Buf n) (j k : Nat) (hk : k < 8) :
    bitAt (imageByte b j) k = (decide (8 * j + k < n) && bitAt b (8 * j + k)) := by
  simp [imageByte, hk]

/-- The bit of weight `2^(7 - k)` of a byte is its bit `k`, MSB-first. -/
theorem byte_bit_eq (x : Byte) (k : Nat) (hk : k < 8) : ((x >>> (7 - k) &&& 1) == 1) = bitAt x k := by
  revert x
  have : k = 0 ∨ k = 1 ∨ k = 2 ∨ k = 3 ∨ k = 4 ∨ k = 5 ∨ k = 6 ∨ k = 7 := by omega
  rcases this with h | h | h | h | h | h | h | h <;> subst h <;> decide

/-- `get_bit` answers the bit at the index, or faults beyond the declared length. -/
theorem getBit_eq (b : Buf n) (pos : Nat) : getBit b pos = if n ≤ pos then none else some (bitAt b pos) := by
  unfold getBit
  split
  · rfl
  · rename_i h
    have hlt : pos / 8 < byteCount n := by unfold byteCount; omega
    have hb : (byteImage b)[pos / 8]?.getD 0 = imageByte b (pos / 8) := by
      simp [byteImage, List.getElem?_range hlt]
    have hk : pos % 8 < 8 := Nat.mod_lt _ (by decide)
    have hp : 8 * (pos / 8) + pos % 8 = pos := Nat.div_add_mod pos 8
    simp only [hb, byte_bit_eq _ _ hk, bitAt_imageByte _ _ _ hk, hp]
    simp [Nat.lt_of_not_le h]

/-- `set_bit` changes one bit, or faults. -/
theorem setBit_eq (b : Buf n) (pos : Nat) (v : Bool) :
    setBit b pos v = if n ≤ pos then none else some (bufOf n fun i => if i = pos then v else bitAt b i) := rfl

/-- `select_range` within bounds. -/
theorem selectRange_of_le (b : Buf n) (h : start + length ≤ n) :
    selectRange b start length = some (bufOf length fun i => bitAt b (start + i)) := by
  simp [selectRange, Nat.not_lt.mpr h]

/-- `select_by_table` with good entries. -/
theorem selectByTable_of_within (b : Buf n) (t : List Nat) (h : entriesWithin n t = true) :
    selectByTable b t = some (bufOf t.length fun i => bitAt b (t.getD i 0 - 1)) := by
  simp [selectByTable, h]

/-- `rotate_left` within bounds. -/
theorem rotateLeft_of_lt (b : Buf n) (hl : bitLength ≤ n) (ha : amount < bitLength) :
    rotateLeft b bitLength amount = some (bufOf bitLength fun i => bitAt b ((i + amount) % bitLength)) := by
  simp [rotateLeft, Nat.not_lt.mpr hl, Nat.not_le.mpr ha]

/-- `concatenate` within bounds. -/
theorem concatenate_of_le (a : Buf na) (b : Buf nb) (ha : la ≤ na) (hb : lb ≤ nb) :
    concatenate a la b lb
      = some (bufOf (la + lb) fun i => if i < la then bitAt a i else bitAt b (i - la)) := by
  simp [concatenate, Nat.not_lt.mpr ha, Nat.not_lt.mpr hb]

/-- A buffer of the wanted length passes unchanged. -/
theorem ofLength_of_eq (h : n = m) (b : Buf n) : ofLength m b = some (b.cast h) := by
  simp [ofLength, h]

/-- An entry of a good table, by its index. -/
theorem entry_within {t : List Nat} (h : entriesWithin n t = true) (hi : i < t.length) :
    1 ≤ t.getD i 0 ∧ t.getD i 0 ≤ n := by
  have hm : t.getD i 0 ∈ t := by
    rw [List.getD_eq_getElem?_getD, List.getElem?_eq_getElem hi]
    exact List.getElem_mem hi
  have := List.all_eq_true.mp h _ hm
  simpa using this

end Sys2Proof.Machine
end

