-- ==== Sys2Proof/Laws/Decode.lean ====
section
/-! SUPPORT. What decoding a beat gives: the instruction whose row of the table the beat matches. -/

namespace Sys2Proof

/-- An aligned address selects the word that lies there (20_memory.md R55). -/
theorem mapWord_addr_all : ∀ addr : Addr, addr.extractLsb' 0 2 = 0#2 →
    (mapWord addr).all (fun r => r.addr = addr) = true := by decide

theorem mapWord_addr {addr : Addr} {r : PortReg} (ha : addr.extractLsb' 0 2 = 0#2) (h : mapWord addr = some r) :
    r.addr = addr := by
  have := mapWord_addr_all addr ha
  simpa [h] using this

/-- Every mapped word is found at its own address. -/
theorem mapWord_of_addr (r : PortReg) : mapWord r.addr = some r := by
  cases r with
  | skHi n => revert n; decide
  | skLo n => revert n; decide
  | _ => decide

/-- A mapped word's address is aligned. -/
theorem addr_aligned (r : PortReg) : r.addr.extractLsb' 0 2 = 0#2 := by
  cases r with
  | skHi n => revert n; decide
  | skLo n => revert n; decide
  | _ => decide

theorem encodeBeat_rdSkHi (n : Fin 16) : encodeBeat (rdSkHi n) = some (readBeat (.skHi n)) := by
  revert n; decide

theorem encodeBeat_rdSkLo (n : Fin 16) : encodeBeat (rdSkLo n) = some (readBeat (.skLo n)) := by
  revert n; decide

/-- The read beat of a word decodes to the read of that word. -/
theorem encodeBeat_of_decodeRead {r : PortReg} {i : Instr} (h : decodeRead r = .ok i) :
    encodeBeat i = some (readBeat r) := by
  cases r with
  | skHi n => cases h; exact encodeBeat_rdSkHi n
  | skLo n => cases h; exact encodeBeat_rdSkLo n
  | _ => cases h <;> rfl

/-- A command word splits into its reserved bits and its opcode. -/
theorem command_split (v : Word) : v = v.extractLsb' 4 28 ++ v.extractLsb' 0 4 := by
  apply BitVec.eq_of_getLsbD_eq
  intro i hi
  have e : (v.extractLsb' 4 28 ++ v.extractLsb' 0 4).getLsbD i
      = if i < 4 then (v.extractLsb' 0 4).getLsbD i else (v.extractLsb' 4 28).getLsbD (i - 4) :=
    BitVec.getLsbD_append
  refine Eq.trans ?_ e.symm
  by_cases h : i < 4
  · simp [h]
  · have h1 : i - 4 < 28 := by omega
    have h2 : 4 + (i - 4) = i := by omega
    simp [h, h1, h2]

theorem opcode_two : ∀ x : BitVec 4, x.toNat < 3 → x ≠ 0#4 → x ≠ 1#4 → x = 2#4 := by decide

/-- The command words are exactly 0, 1 and 2 (30_encoding.md R84). -/
theorem encodeBeat_of_decodeCommand {v : Word} {i : Instr} (h : decodeCommand v = .ok i) :
    encodeBeat i = some (writeBeat .cmd v) := by
  unfold decodeCommand at h
  split at h
  · cases h
  · rename_i hn
    rw [not_or, not_ne_iff, Nat.not_le] at hn
    have hv := command_split v
    rw [hn.1] at hv
    split at h
    · rename_i h0; cases h; rw [hv, h0]; rfl
    · split at h
      · rename_i h1; cases h; rw [hv, h1]; rfl
      · rename_i h0 h1
        have h2 : v.extractLsb' 0 4 = 2#4 := by
          exact opcode_two _ hn.2 h0 h1
        cases h; rw [hv, h2]; rfl

/-- The write beat of a word decodes to the write of that word. -/
theorem encodeBeat_of_decodeWrite {r : PortReg} {v : Word} {i : Instr} (h : decodeWrite r v = .ok i) :
    encodeBeat i = some (writeBeat r v) := by
  cases r with
  | cmd => exact encodeBeat_of_decodeCommand h
  | key0 => cases h; rfl
  | key1 => cases h; rfl
  | _ => cases h

/-- A beat that decodes agrees with the encoding of the instruction it decodes to in address and direction, and, for a
write, in data. -/
theorem decodeBeat_agrees {b : Beat} {i : Instr} (h : decodeBeat b = .ok i) :
    ∃ e, encodeBeat i = some e ∧ e.addr = b.addr ∧ e.we = b.we ∧ (b.we = true → e = b) := by
  unfold decodeBeat at h
  split at h
  · cases h
  · rename_i ha
    split at h
    · cases h
    · rename_i r hr
      have hra := mapWord_addr (not_ne_iff.mp ha) hr
      split at h
      · rename_i hw
        refine ⟨_, encodeBeat_of_decodeWrite h, hra, hw.symm, fun _ => ?_⟩
        cases b
        simp_all [writeBeat]
      · rename_i hw
        exact ⟨_, encodeBeat_of_decodeRead h, hra, (Bool.not_eq_true _ ▸ hw).symm, fun hc => absurd hc hw⟩

end Sys2Proof
end

