-- ==== Sys2Proof/Laws/State.lean ====
section
/-! SUPPORT. One lemma per field per update of the state, each true by definition, so that no later proof unfolds a
record update. -/

namespace Sys2Proof.Machine

/-! ### The fields after a successful response -/

@[simp] theorem State.respond_key0 (s : State) (v : Word) : (s.respond v).key0 = s.key0 := rfl
@[simp] theorem State.respond_key1 (s : State) (v : Word) : (s.respond v).key1 = s.key1 := rfl
@[simp] theorem State.respond_keyvalid (s : State) (v : Word) : (s.respond v).keyvalid = s.keyvalid := rfl
@[simp] theorem State.respond_c (s : State) (v : Word) : (s.respond v).c = s.c := rfl
@[simp] theorem State.respond_d (s : State) (v : Word) : (s.respond v).d = s.d := rfl
@[simp] theorem State.respond_subkey (s : State) (v : Word) : (s.respond v).subkey = s.subkey := rfl
@[simp] theorem State.respond_phase (s : State) (v : Word) : (s.respond v).phase = s.phase := rfl
@[simp] theorem State.respond_round (s : State) (v : Word) : (s.respond v).round = s.round := rfl
@[simp] theorem State.respond_cause (s : State) (v : Word) : (s.respond v).cause = s.cause := rfl
@[simp] theorem State.respond_errAddr (s : State) (v : Word) : (s.respond v).errAddr = s.errAddr := rfl
@[simp] theorem State.respond_errWe (s : State) (v : Word) : (s.respond v).errWe = s.errWe := rfl
@[simp] theorem State.respond_cfg (s : State) (v : Word) : (s.respond v).cfg = s.cfg := rfl
@[simp] theorem State.respond_rdata (s : State) (v : Word) : (s.respond v).rdata = v := rfl
@[simp] theorem State.respond_err (s : State) (v : Word) : (s.respond v).err = false := rfl
@[simp] theorem State.respond_unitOut (s : State) (v : Word) : (s.respond v).unitOut = s.unitOut := rfl
@[simp] theorem State.respond_inputs (s : State) (v : Word) : (s.respond v).inputs = s.inputs := rfl
@[simp] theorem State.respond_freeIndex (s : State) (v : Word) : (s.respond v).freeIndex = s.freeIndex := rfl

/-! ### The fields after the error response -/

@[simp] theorem State.respondError_key0 (s : State) : (s.respondError).key0 = s.key0 := rfl
@[simp] theorem State.respondError_key1 (s : State) : (s.respondError).key1 = s.key1 := rfl
@[simp] theorem State.respondError_keyvalid (s : State) : (s.respondError).keyvalid = s.keyvalid := rfl
@[simp] theorem State.respondError_c (s : State) : (s.respondError).c = s.c := rfl
@[simp] theorem State.respondError_d (s : State) : (s.respondError).d = s.d := rfl
@[simp] theorem State.respondError_subkey (s : State) : (s.respondError).subkey = s.subkey := rfl
@[simp] theorem State.respondError_phase (s : State) : (s.respondError).phase = s.phase := rfl
@[simp] theorem State.respondError_round (s : State) : (s.respondError).round = s.round := rfl
@[simp] theorem State.respondError_cause (s : State) : (s.respondError).cause = s.cause := rfl
@[simp] theorem State.respondError_errAddr (s : State) : (s.respondError).errAddr = s.errAddr := rfl
@[simp] theorem State.respondError_errWe (s : State) : (s.respondError).errWe = s.errWe := rfl
@[simp] theorem State.respondError_cfg (s : State) : (s.respondError).cfg = s.cfg := rfl
@[simp] theorem State.respondError_rdata (s : State) : (s.respondError).rdata = 0#32 := rfl
@[simp] theorem State.respondError_err (s : State) : (s.respondError).err = true := rfl
@[simp] theorem State.respondError_unitOut (s : State) : (s.respondError).unitOut = s.unitOut := rfl
@[simp] theorem State.respondError_inputs (s : State) : (s.respondError).inputs = s.inputs := rfl
@[simp] theorem State.respondError_freeIndex (s : State) : (s.respondError).freeIndex = s.freeIndex := rfl

/-! ### The fields after a refusal in ERROR -/

@[simp] theorem State.refuse_key0 (s : State) : (s.refuse).key0 = s.key0 := rfl
@[simp] theorem State.refuse_key1 (s : State) : (s.refuse).key1 = s.key1 := rfl
@[simp] theorem State.refuse_keyvalid (s : State) : (s.refuse).keyvalid = s.keyvalid := rfl
@[simp] theorem State.refuse_c (s : State) : (s.refuse).c = s.c := rfl
@[simp] theorem State.refuse_d (s : State) : (s.refuse).d = s.d := rfl
@[simp] theorem State.refuse_subkey (s : State) : (s.refuse).subkey = s.subkey := rfl
@[simp] theorem State.refuse_phase (s : State) : (s.refuse).phase = s.phase := rfl
@[simp] theorem State.refuse_round (s : State) : (s.refuse).round = s.round := rfl
@[simp] theorem State.refuse_cause (s : State) : (s.refuse).cause = s.cause := rfl
@[simp] theorem State.refuse_errAddr (s : State) : (s.refuse).errAddr = s.errAddr := rfl
@[simp] theorem State.refuse_errWe (s : State) : (s.refuse).errWe = s.errWe := rfl
@[simp] theorem State.refuse_cfg (s : State) : (s.refuse).cfg = s.cfg := rfl
@[simp] theorem State.refuse_rdata (s : State) : (s.refuse).rdata = 0#32 := rfl
@[simp] theorem State.refuse_err (s : State) : (s.refuse).err = true := rfl
@[simp] theorem State.refuse_unitOut (s : State) : (s.refuse).unitOut = s.unitOut := rfl
@[simp] theorem State.refuse_inputs (s : State) : (s.refuse).inputs = s.inputs := rfl
@[simp] theorem State.refuse_freeIndex (s : State) : (s.refuse).freeIndex = s.freeIndex := rfl

/-! ### The fields after giving up the data registers -/

@[simp] theorem State.withdraw_key0 (s : State) : (s.withdraw).key0 = none := rfl
@[simp] theorem State.withdraw_key1 (s : State) : (s.withdraw).key1 = none := rfl
@[simp] theorem State.withdraw_keyvalid (s : State) : (s.withdraw).keyvalid = s.keyvalid := rfl
@[simp] theorem State.withdraw_c (s : State) : (s.withdraw).c = none := rfl
@[simp] theorem State.withdraw_d (s : State) : (s.withdraw).d = none := rfl
@[simp] theorem State.withdraw_subkey (s : State) : (s.withdraw).subkey = Vector.replicate 16 none := rfl
@[simp] theorem State.withdraw_phase (s : State) : (s.withdraw).phase = s.phase := rfl
@[simp] theorem State.withdraw_round (s : State) : (s.withdraw).round = s.round := rfl
@[simp] theorem State.withdraw_cause (s : State) : (s.withdraw).cause = s.cause := rfl
@[simp] theorem State.withdraw_errAddr (s : State) : (s.withdraw).errAddr = s.errAddr := rfl
@[simp] theorem State.withdraw_errWe (s : State) : (s.withdraw).errWe = s.errWe := rfl
@[simp] theorem State.withdraw_cfg (s : State) : (s.withdraw).cfg = s.cfg := rfl
@[simp] theorem State.withdraw_rdata (s : State) : (s.withdraw).rdata = s.rdata := rfl
@[simp] theorem State.withdraw_err (s : State) : (s.withdraw).err = s.err := rfl
@[simp] theorem State.withdraw_unitOut (s : State) : (s.withdraw).unitOut = s.unitOut := rfl
@[simp] theorem State.withdraw_inputs (s : State) : (s.withdraw).inputs = s.inputs := rfl
@[simp] theorem State.withdraw_freeIndex (s : State) : (s.withdraw).freeIndex = s.freeIndex := rfl

/-! ### The fields after trap entry -/

@[simp] theorem State.trap_key0 (s : State) (cause : Cause) (addr : Addr) (we : Bool) : (s.trap cause addr we).key0 = none := rfl
@[simp] theorem State.trap_key1 (s : State) (cause : Cause) (addr : Addr) (we : Bool) : (s.trap cause addr we).key1 = none := rfl
@[simp] theorem State.trap_keyvalid (s : State) (cause : Cause) (addr : Addr) (we : Bool) : (s.trap cause addr we).keyvalid = 0#2 := rfl
@[simp] theorem State.trap_c (s : State) (cause : Cause) (addr : Addr) (we : Bool) : (s.trap cause addr we).c = none := rfl
@[simp] theorem State.trap_d (s : State) (cause : Cause) (addr : Addr) (we : Bool) : (s.trap cause addr we).d = none := rfl
@[simp] theorem State.trap_subkey (s : State) (cause : Cause) (addr : Addr) (we : Bool) : (s.trap cause addr we).subkey = Vector.replicate 16 none := rfl
@[simp] theorem State.trap_phase (s : State) (cause : Cause) (addr : Addr) (we : Bool) : (s.trap cause addr we).phase = .error := rfl
@[simp] theorem State.trap_round (s : State) (cause : Cause) (addr : Addr) (we : Bool) : (s.trap cause addr we).round = s.round := rfl
@[simp] theorem State.trap_cause (s : State) (cause : Cause) (addr : Addr) (we : Bool) : (s.trap cause addr we).cause = cause := rfl
@[simp] theorem State.trap_errAddr (s : State) (cause : Cause) (addr : Addr) (we : Bool) : (s.trap cause addr we).errAddr = addr := rfl
@[simp] theorem State.trap_errWe (s : State) (cause : Cause) (addr : Addr) (we : Bool) : (s.trap cause addr we).errWe = we := rfl
@[simp] theorem State.trap_cfg (s : State) (cause : Cause) (addr : Addr) (we : Bool) : (s.trap cause addr we).cfg = s.cfg := rfl
@[simp] theorem State.trap_rdata (s : State) (cause : Cause) (addr : Addr) (we : Bool) : (s.trap cause addr we).rdata = 0#32 := rfl
@[simp] theorem State.trap_err (s : State) (cause : Cause) (addr : Addr) (we : Bool) : (s.trap cause addr we).err = true := rfl
@[simp] theorem State.trap_unitOut (s : State) (cause : Cause) (addr : Addr) (we : Bool) : (s.trap cause addr we).unitOut = s.unitOut := rfl
@[simp] theorem State.trap_inputs (s : State) (cause : Cause) (addr : Addr) (we : Bool) : (s.trap cause addr we).inputs = s.inputs := rfl
@[simp] theorem State.trap_freeIndex (s : State) (cause : Cause) (addr : Addr) (we : Bool) : (s.trap cause addr we).freeIndex = s.freeIndex := rfl

/-! ### The fields after reset and CLEAR -/

@[simp] theorem State.clear_key0 (s : State) : (s.clear).key0 = none := rfl
@[simp] theorem State.clear_key1 (s : State) : (s.clear).key1 = none := rfl
@[simp] theorem State.clear_keyvalid (s : State) : (s.clear).keyvalid = 0#2 := rfl
@[simp] theorem State.clear_c (s : State) : (s.clear).c = none := rfl
@[simp] theorem State.clear_d (s : State) : (s.clear).d = none := rfl
@[simp] theorem State.clear_subkey (s : State) : (s.clear).subkey = Vector.replicate 16 none := rfl
@[simp] theorem State.clear_phase (s : State) : (s.clear).phase = .idle := rfl
@[simp] theorem State.clear_round (s : State) : (s.clear).round = 0#5 := rfl
@[simp] theorem State.clear_cause (s : State) : (s.clear).cause = .none := rfl
@[simp] theorem State.clear_errAddr (s : State) : (s.clear).errAddr = 0#8 := rfl
@[simp] theorem State.clear_errWe (s : State) : (s.clear).errWe = false := rfl
@[simp] theorem State.clear_cfg (s : State) : (s.clear).cfg = s.cfg := rfl
@[simp] theorem State.clear_rdata (s : State) : (s.clear).rdata = 0#32 := rfl
@[simp] theorem State.clear_err (s : State) : (s.clear).err = false := rfl
@[simp] theorem State.clear_unitOut (s : State) : (s.clear).unitOut = .idle := rfl
@[simp] theorem State.clear_inputs (s : State) : (s.clear).inputs = s.inputs := rfl
@[simp] theorem State.clear_freeIndex (s : State) : (s.clear).freeIndex = s.freeIndex := rfl

/-! ### The fields after event intake -/

@[simp] theorem State.takeEvent_key0 (s : State) (rest : List Event) : (s.takeEvent rest).key0 = s.key0 := rfl
@[simp] theorem State.takeEvent_key1 (s : State) (rest : List Event) : (s.takeEvent rest).key1 = s.key1 := rfl
@[simp] theorem State.takeEvent_keyvalid (s : State) (rest : List Event) : (s.takeEvent rest).keyvalid = s.keyvalid := rfl
@[simp] theorem State.takeEvent_c (s : State) (rest : List Event) : (s.takeEvent rest).c = s.c := rfl
@[simp] theorem State.takeEvent_d (s : State) (rest : List Event) : (s.takeEvent rest).d = s.d := rfl
@[simp] theorem State.takeEvent_subkey (s : State) (rest : List Event) : (s.takeEvent rest).subkey = s.subkey := rfl
@[simp] theorem State.takeEvent_phase (s : State) (rest : List Event) : (s.takeEvent rest).phase = s.phase := rfl
@[simp] theorem State.takeEvent_round (s : State) (rest : List Event) : (s.takeEvent rest).round = s.round := rfl
@[simp] theorem State.takeEvent_cause (s : State) (rest : List Event) : (s.takeEvent rest).cause = s.cause := rfl
@[simp] theorem State.takeEvent_errAddr (s : State) (rest : List Event) : (s.takeEvent rest).errAddr = s.errAddr := rfl
@[simp] theorem State.takeEvent_errWe (s : State) (rest : List Event) : (s.takeEvent rest).errWe = s.errWe := rfl
@[simp] theorem State.takeEvent_cfg (s : State) (rest : List Event) : (s.takeEvent rest).cfg = s.cfg := rfl
@[simp] theorem State.takeEvent_rdata (s : State) (rest : List Event) : (s.takeEvent rest).rdata = 0#32 := rfl
@[simp] theorem State.takeEvent_err (s : State) (rest : List Event) : (s.takeEvent rest).err = false := rfl
@[simp] theorem State.takeEvent_unitOut (s : State) (rest : List Event) : (s.takeEvent rest).unitOut = .idle := rfl
@[simp] theorem State.takeEvent_inputs (s : State) (rest : List Event) : (s.takeEvent rest).inputs = rest := rfl
@[simp] theorem State.takeEvent_freeIndex (s : State) (rest : List Event) : (s.takeEvent rest).freeIndex = s.freeIndex + 1 := rfl

/-! ### The fields after a primitive's answer -/

@[simp] theorem State.unitAnswer_some (s : State) (out : α → UnitOut) (v : α) :
    s.unitAnswer out (some v) = { s with unitOut := out v } := rfl
@[simp] theorem State.unitAnswer_none (s : State) (out : α → UnitOut) :
    s.unitAnswer out none = { s with unitOut := .bounds } := rfl

/-- A primitive's answer changes the unit's output only (40 R114). -/
theorem State.unitAnswer_frame (s : State) (out : α → UnitOut) (r : Option α) :
    s.unitAnswer out r = { s with unitOut := (s.unitAnswer out r).unitOut } := by
  cases r <;> rfl

/-! ### PHASE and its code -/

@[simp] theorem Phase.ofCode_code (p : Phase) : Phase.ofCode p.code = p := by cases p <;> rfl

theorem Phase.code_injective {p q : Phase} (h : p.code = q.code) : p = q := by
  rw [← Phase.ofCode_code p, h, Phase.ofCode_code]

/-! ### Reads of the data registers -/

@[simp] theorem readReg_some (r : Config.DataReg) (x : Buf w) (n : Nat) : readReg r (some x) n = x := rfl

end Sys2Proof.Machine
end

