-- ==== Sys2Proof/Laws/Ops.lean ====
section
/-! SUPPORT. What each shared operation over the state can do, said once. -/

namespace Sys2Proof.Machine

/-- An offending beat in ERROR is refused. -/
theorem State.offend_of_error {s : State} (cause : Cause) (addr : Addr) (we : Bool) (h : s.phase = .error) :
    s.offend cause addr we = s.refuse := by
  simp [State.offend, h]

/-- An offending beat outside ERROR enters the trap. -/
theorem State.offend_of_ne_error {s : State} (cause : Cause) (addr : Addr) (we : Bool) (h : s.phase ≠ .error) :
    s.offend cause addr we = s.trap cause addr we := by
  unfold State.offend
  split <;> first | rfl | contradiction

/-- A guarded beat in ERROR is refused. -/
theorem State.unlessError_of_error {s : State} (t : State) (h : s.phase = .error) : s.unlessError t = s.refuse := by
  simp [State.unlessError, h]

/-- A guarded beat outside ERROR has its effect. -/
theorem State.unlessError_of_ne_error {s : State} (t : State) (h : s.phase ≠ .error) : s.unlessError t = t := by
  unfold State.unlessError
  split <;> first | rfl | contradiction

/-- A read of C or D is one of: refused, NOTREADY, served. -/
theorem State.readInCall_cases (s : State) (addr : Addr) (v : Word) :
    (s.phase = .error ∧ s.readInCall addr v = s.refuse)
      ∨ (s.phase = .idle ∧ s.readInCall addr v = s.trap .notready addr false)
      ∨ ((s.phase = .run ∨ s.phase = .done) ∧ s.readInCall addr v = s.respond v) := by
  unfold State.readInCall
  cases h : s.phase <;> simp

/-- A read of a subkey word is one of: refused, NOTREADY, served. -/
theorem State.readWhenDone_cases (s : State) (addr : Addr) (v : Word) :
    (s.phase = .error ∧ s.readWhenDone addr v = s.refuse)
      ∨ ((s.phase = .idle ∨ s.phase = .run) ∧ s.readWhenDone addr v = s.trap .notready addr false)
      ∨ (s.phase = .done ∧ s.readWhenDone addr v = s.respond v) := by
  unfold State.readWhenDone
  cases h : s.phase <;> simp

/-- If LOAD answers, it has split the key, and its writes are those of 41 R133. -/
theorem State.load_eq_some {s t : State} (h : s.load = some t) :
    ∃ c d, splitKey s.cfg s.readKey = some (c, d)
      ∧ t = { s with
          c := some c, d := some d, round := 0#5, phase := .run, keyvalid := 0#2, key0 := none, key1 := none,
          subkey := Vector.replicate 16 none } := by
  unfold State.load at h
  split at h
  · cases h
  · rename_i c d hcd
    exact ⟨c, d, hcd, (Option.some.inj h).symm⟩

/-- If ROUND answers, a round has been made of the halves, and its writes are those of 41 R134. -/
theorem State.runRound_eq_some {s t : State} (h : s.runRound = some t) :
    ∃ c d sk, roundOf s.cfg s.round.toNat s.readC s.readD = some (c, d, sk)
      ∧ t = { s with
          c := some c, d := some d, subkey := s.subkey.setIfInBounds s.round.toNat (some sk), round := s.round + 1#5,
          phase := if s.round.toNat + 1 = 16 then .done else s.phase } := by
  unfold State.runRound at h
  split at h
  · cases h
  · rename_i c d sk hr
    exact ⟨c, d, sk, hr, (Option.some.inj h).symm⟩

/-- A micro-operation that answers a next state has made its writes. -/
theorem microOutcome_eq_next {r : Option State} {t : State} (h : microOutcome r = .next t) : r = some t := by
  cases r with
  | none => cases h
  | some u => cases h; rfl

theorem extractPhase_append : ∀ (p : BitVec 2) (r : BitVec 5), (p ++ r).extractLsb' 5 2 = p := by decide

theorem extractRound_append : ∀ (p : BitVec 2) (r : BitVec 5), (p ++ r).extractLsb' 0 5 = r := by decide

/-- The sequencer's position selects ROUND exactly when the sequencer has a step (30 R86, 41 R131). -/
theorem decodePosition_position (s : State) :
    decodePosition s.position = if s.roundReady then .ok .round else .error .noMicroOp := by
  have h1 : s.position.extractLsb' 5 2 = s.phase.code := extractPhase_append _ _
  have h2 : s.position.extractLsb' 0 5 = s.round := extractRound_append _ _
  have h3 : (s.phase.code = 1#2) ↔ s.phase = .run := by cases s.phase <;> simp [Phase.code]
  simp only [decodePosition, h1, h2, h3, State.roundReady]
  by_cases h : s.phase = .run <;> by_cases h' : s.round.toNat < 16 <;> simp [h, h']

end Sys2Proof.Machine
end

