-- ==== Sys2Proof/Laws/Tables.lean ====
section
/-! SUPPORT. What `tablesOk` gives (40_bit_buffer_primitives.md R110), and that under it no primitive inside LOAD or
ROUND faults (41 R134, 60 R203). -/

namespace Sys2Proof.Machine

/-- The parts of `tablesOk`, by name. -/
structure GoodTables (cfg : Config.Tables) : Prop where
  pc1_length : cfg.pc1.length = 56
  pc1_within : entriesWithin 64 cfg.pc1 = true
  pc2_length : cfg.pc2.length = 48
  pc2_within : entriesWithin 56 cfg.pc2 = true
  shifts_length : cfg.shifts.length = 16
  shifts_one_or_two : ∀ a ∈ cfg.shifts, a = 1 ∨ a = 2
  shifts_sum : cfg.shifts.sum = 28

/-- `tablesOk` is the conjunction of its parts. -/
theorem tablesOk_iff (cfg : Config.Tables) : tablesOk cfg = true ↔ GoodTables cfg := by
  constructor
  · intro h
    simp only [tablesOk, Bool.and_eq_true, decide_eq_true_eq, List.all_eq_true, Bool.or_eq_true, beq_iff_eq] at h
    obtain ⟨⟨⟨⟨⟨⟨h1, h2⟩, h3⟩, h4⟩, h5⟩, h6⟩, h7⟩ := h
    exact ⟨h1, h2, h3, h4, h5, h6, h7⟩
  · rintro ⟨h1, h2, h3, h4, h5, h6, h7⟩
    simp only [tablesOk, Bool.and_eq_true, decide_eq_true_eq, List.all_eq_true, Bool.or_eq_true, beq_iff_eq]
    exact ⟨⟨⟨⟨⟨⟨h1, h2⟩, h3⟩, h4⟩, h5⟩, h6⟩, h7⟩

/-- The bits LOAD's halves have: C from PC1's first 28 entries, D from the rest (41 R133). -/
theorem splitKey_of_good {cfg : Config.Tables} (h : GoodTables cfg) (key : Buf 64) :
    splitKey cfg key = some
      (bufOf 28 fun i => bitAt key (cfg.pc1.getD i 0 - 1), bufOf 28 fun i => bitAt key (cfg.pc1.getD (28 + i) 0 - 1)) := by
  have hl := h.pc1_length
  simp only [splitKey, selectByTable_of_within key _ h.pc1_within, Option.bind_some, ofLength_of_eq hl,
    selectRange_of_le _ (show 0 + 28 ≤ 56 by decide), selectRange_of_le _ (show 28 + 28 ≤ 56 by decide),
    Option.some.injEq, Prod.mk.injEq]
  constructor <;> apply bufOf_congr <;> intro i hi
  · rw [bitAt_cast, bitAt_bufOf]; simp [show i < cfg.pc1.length by omega]
  · rw [bitAt_cast, bitAt_bufOf]; simp [show 28 + i < cfg.pc1.length by omega]

/-- The rotation amount of a round is 1 or 2 (40 R118). -/
theorem shifts_getElem {cfg : Config.Tables} (h : GoodTables cfg) (hr : r < 16) :
    ∃ a, cfg.shifts[r]? = some a ∧ (a = 1 ∨ a = 2) := by
  have hr' : r < cfg.shifts.length := by have := h.shifts_length; omega
  exact ⟨cfg.shifts[r], List.getElem?_eq_getElem hr', h.shifts_one_or_two _ (List.getElem_mem hr')⟩

/-- A half rotated left by `a` within its 28 bits (41 R134). -/
def rotHalf (b : Buf 28) (a : Nat) : Buf 28 := bufOf 28 fun i => bitAt b ((i + a) % 28)

@[simp] theorem bitAt_rotHalf (b : Buf 28) (a i : Nat) :
    bitAt (rotHalf b a) i = (decide (i < 28) && bitAt b ((i + a) % 28)) := by
  simp [rotHalf]

/-- PC2 of two halves side by side (41 R134). -/
def permuteHalves (cfg : Config.Tables) (c d : Buf 28) : Buf 48 :=
  bufOf 48 fun i =>
    if cfg.pc2.getD i 0 - 1 < 28 then bitAt c (cfg.pc2.getD i 0 - 1) else bitAt d (cfg.pc2.getD i 0 - 1 - 28)

/-- What a round makes of the halves under good tables (41 R134). -/
theorem roundOf_of_good {cfg : Config.Tables} (h : GoodTables cfg) (c d : Buf 28) {r a : Nat}
    (hs : cfg.shifts[r]? = some a) :
    roundOf cfg r c d = some (rotHalf c a, rotHalf d a, permuteHalves cfg (rotHalf c a) (rotHalf d a)) := by
  have ha : a < 28 := by
    obtain ⟨hlt, rfl⟩ := List.getElem?_eq_some_iff.mp hs
    rcases h.shifts_one_or_two _ (List.getElem_mem hlt) with h | h <;> omega
  simp only [roundOf, hs, rotateLeft_of_lt _ (Nat.le_refl 28) ha,
    concatenate_of_le _ _ (Nat.le_refl 28) (Nat.le_refl 28),
    selectByTable_of_within _ _ h.pc2_within, ofLength_of_eq h.pc2_length]
  refine congrArg some (Prod.ext rfl (Prod.ext rfl ?_))
  apply buf_ext
  intro i hi
  have hi' : i < cfg.pc2.length := by have := h.pc2_length; omega
  have he := entry_within h.pc2_within hi'
  have he' : cfg.pc2.getD i 0 - 1 < 28 + 28 := by omega
  have hp : bitAt (permuteHalves cfg (rotHalf c a) (rotHalf d a)) i
      = if cfg.pc2.getD i 0 - 1 < 28 then bitAt (rotHalf c a) (cfg.pc2.getD i 0 - 1)
        else bitAt (rotHalf d a) (cfg.pc2.getD i 0 - 1 - 28) := by
    simp only [permuteHalves, bitAt_bufOf, hi, decide_true, Bool.true_and]
  rw [hp, bitAt_cast, bitAt_bufOf, bitAt_bufOf]
  simp only [hi', he', decide_true, Bool.true_and]
  rfl

/-- LOAD answers under good tables: no primitive faults. -/
theorem State.load_isSome {s : State} (h : tablesOk s.cfg = true) : ∃ t, s.load = some t := by
  simp [State.load, splitKey_of_good ((tablesOk_iff _).mp h)]

/-- ROUND answers under good tables: no primitive faults (41 R134). -/
theorem State.runRound_isSome {s : State} (h : tablesOk s.cfg = true) (hr : s.round.toNat < 16) :
    ∃ t, s.runRound = some t := by
  obtain ⟨a, ha, -⟩ := shifts_getElem ((tablesOk_iff _).mp h) hr
  simp [State.runRound, roundOf_of_good ((tablesOk_iff _).mp h) _ _ ha]

end Sys2Proof.Machine
end

