-- ==== Sys2Proof/Laws/Exec.lean ====
section
/-! SUPPORT. Everything a beat, a turn of the sequencer and a step can do, said once (`BeatEffect`, `exec_beatEffect`,
`step_beat`, `step_sequencer`, `step_reset`,
`step_cases`): later proofs take these apart and do not unfold a meaning. -/

namespace Sys2Proof.Machine

/-- The beats of the commands START and CLEAR (30_encoding.md R88). -/
def startBeat : Beat := writeBeat .cmd 0x1#32
def clearBeat : Beat := writeBeat .cmd 0x2#32

/-- What a beat can do at `s`. -/
inductive BeatEffect (s : State) (b : Beat) : Outcome → Prop where
  /-- refused in ERROR (42 R175) -/
  | refused (h : s.phase = .error) : BeatEffect s b (.next s.refuse)
  /-- trap entry outside ERROR (60 R210) -/
  | trapped (cause : Cause) (h : s.phase ≠ .error) (hn : cause ≠ .none) (hb : cause ≠ .bounds) :
      BeatEffect s b (.next (s.trap cause b.addr b.we))
  /-- a response and nothing else: every read that is served, and NOP -/
  | answered (v : Word) (hw : b.we = true → v = 0#32) : BeatEffect s b (.next (s.respond v))
  /-- WR KEY0 -/
  | wroteKey0 (v : Word) (h : s.phase ≠ .error) (hw : b.we = true) : BeatEffect s b
      (.next ({ s with key0 := some (keyHalf v), keyvalid := setKey0Valid s.keyvalid }.respond 0#32))
  /-- WR KEY1 -/
  | wroteKey1 (v : Word) (h : s.phase ≠ .error) (hw : b.we = true) : BeatEffect s b
      (.next ({ s with key1 := some (keyHalf v), keyvalid := setKey1Valid s.keyvalid }.respond 0#32))
  /-- START accepted -/
  | started (t : State) (hr : s.loadReady = true) (hl : s.load = some t) (hb : b = startBeat) :
      BeatEffect s b (.next (t.respond 0#32))
  /-- CLEAR -/
  | cleared (hb : b = clearBeat) : BeatEffect s b (.next (s.clear.respond 0#32))

/-- The data of a read beat does not matter (30_encoding.md R81). -/
theorem BeatEffect.of_agrees {s : State} {e b : Beat} {o : Outcome} (h : BeatEffect s e o) (ha : e.addr = b.addr)
    (hw : e.we = b.we) (hd : b.we = true → e = b) : BeatEffect s b o := by
  cases hb : b.we with
  | true => exact hd hb ▸ h
  | false =>
    have he : e.we = false := hw.trans hb
    cases h with
    | refused h => exact .refused h
    | trapped c h hn hb' => rw [ha, hw]; exact .trapped c h hn hb'
    | answered v _ => exact .answered v (by simp [hb])
    | wroteKey0 v h hw' => simp [he] at hw'
    | wroteKey1 v h hw' => simp [he] at hw'
    | started t hr hl hb' => subst hb'; simp [startBeat, writeBeat] at he
    | cleared hb' => subst hb'; simp [clearBeat, writeBeat] at he

/-- A read of C or D. -/
theorem readInCall_effect (s : State) (addr : Addr) (v w : Word) :
    BeatEffect s ⟨false, addr, w⟩ (.next (s.readInCall addr v)) := by
  rcases s.readInCall_cases addr v with ⟨h, e⟩ | ⟨h, e⟩ | ⟨h, e⟩ <;> rw [e]
  · exact .refused h
  · exact .trapped (b := ⟨false, addr, w⟩) _ (by simp [h]) (by decide) (by decide)
  · exact .answered v (by simp)

/-- A read of a subkey word. -/
theorem readWhenDone_effect (s : State) (addr : Addr) (v w : Word) :
    BeatEffect s ⟨false, addr, w⟩ (.next (s.readWhenDone addr v)) := by
  rcases s.readWhenDone_cases addr v with ⟨h, e⟩ | ⟨h, e⟩ | ⟨h, e⟩ <;> rw [e]
  · exact .refused h
  · exact .trapped (b := ⟨false, addr, w⟩) _ (by rcases h with h | h <;> simp [h]) (by decide) (by decide)
  · exact .answered v (by simp)

/-- START in IDLE or DONE. -/
theorem startCall_effect {s : State} (hp : s.phase = .idle ∨ s.phase = .done) :
    BeatEffect s startBeat s.startCall := by
  have hne : s.phase ≠ .error := by rcases hp with h | h <;> simp [h]
  unfold State.startCall
  split
  · exact .trapped (b := startBeat) _ hne (by decide) (by decide)
  · rename_i ht
    split
    · exact .trapped (b := startBeat) _ hne (by decide) (by decide)
    · rename_i hk
      have ht' : tablesOk s.cfg = true := by simpa using ht
      obtain ⟨t, hl⟩ := State.load_isSome ht'
      rw [hl]
      exact .started t (by simp [State.loadReady, hp, ht', not_ne_iff.mp hk]) hl rfl

/-- START. -/
theorem execWrCmdStart_effect (s : State) : BeatEffect s startBeat (execWrCmdStart s) := by
  unfold execWrCmdStart
  cases h : s.phase with
  | idle => exact startCall_effect (.inl h)
  | run => exact .trapped (b := startBeat) _ (by simp [h]) (by decide) (by decide)
  | done => exact startCall_effect (.inr h)
  | error => exact .refused h

/-- WR KEY0. -/
theorem execWrKey0_effect (v : Word) (s : State) : BeatEffect s (writeBeat .key0 v) (execWrKey0 v s) := by
  unfold execWrKey0
  by_cases h : s.phase = .error
  · rw [State.unlessError_of_error _ h]; exact .refused h
  · rw [State.unlessError_of_ne_error _ h]; exact .wroteKey0 v h rfl

/-- WR KEY1. -/
theorem execWrKey1_effect (v : Word) (s : State) : BeatEffect s (writeBeat .key1 v) (execWrKey1 v s) := by
  unfold execWrKey1
  by_cases h : s.phase = .error
  · rw [State.unlessError_of_error _ h]; exact .refused h
  · rw [State.unlessError_of_ne_error _ h]; exact .wroteKey1 v h rfl

/-- Every instruction of format BEAT has one of the effects of a beat with its own address and direction. -/
theorem exec_beatEffect {i : Instr} {b : Beat} (h : encodeBeat i = some b) (s : State) :
    BeatEffect s b (exec i s) := by
  cases i <;> first
    | (cases h; exact readWhenDone_effect s _ _ _)
    | (cases h; exact readInCall_effect s _ _ _)
    | (cases h; exact execWrCmdStart_effect s)
    | (cases h; exact execWrKey0_effect _ s)
    | (cases h; exact execWrKey1_effect _ s)
    | (cases h; exact .cleared rfl)
    | (cases h; exact .answered _ (by simp [readBeat, writeBeat]))
    | cases h

/-- The cause of an illegal beat is ACCESS or BADCMD. -/
theorem beatErrorCause_cases (e : BeatError) : beatErrorCause e = .access ∨ beatErrorCause e = .badcmd := by
  cases e <;> simp [beatErrorCause]

/-- An offending beat is refused or enters the trap. -/
theorem offend_effect (s : State) (b : Beat) {cause : Cause} (hn : cause ≠ .none) (hb : cause ≠ .bounds) :
    BeatEffect s b (.next (s.offend cause b.addr b.we)) := by
  by_cases h : s.phase = .error
  · rw [State.offend_of_error _ _ _ h]; exact .refused h
  · rw [State.offend_of_ne_error _ _ _ h]; exact .trapped _ h hn hb

/-- The state at which the next event acts. -/
def State.taken (s : State) : State := s.takeEvent s.nextEvent.2

/-- A step whose event is a beat. -/
theorem step_beat {s : State} {b : Beat} (h : s.nextEvent.1 = .beat b) :
    BeatEffect s.taken b (step s) := by
  have hs : s.select = selectEvent (.beat b) s.taken := by simp [State.select, h, State.taken]
  unfold step
  rw [hs]
  simp only [selectEvent]
  cases hd : decodeBeat b with
  | ok i =>
    obtain ⟨e, he, ha, hw, hx⟩ := decodeBeat_agrees hd
    exact (exec_beatEffect he s.taken).of_agrees ha hw hx
  | error x =>
    rcases beatErrorCause_cases x with hc | hc <;> simp only [hc] <;>
      exact offend_effect _ _ (by decide) (by decide)

/-- A step whose event is the sequencer's turn. -/
theorem step_sequencer {s : State} (h : s.nextEvent.1 = .sequencer) :
    step s = if s.taken.roundReady then microOutcome s.taken.runRound else .next s.taken := by
  have hs : s.select = selectEvent .sequencer s.taken := by simp [State.select, h, State.taken]
  unfold step
  rw [hs]
  simp only [selectEvent, decodePosition_position]
  cases hr : s.taken.roundReady with
  | true => simp [exec, execRound, hr]
  | false => simp

/-- A step whose event is reset. -/
theorem step_reset {s : State} (h : s.nextEvent.1 = .reset) : step s = .next s.taken.clear := by
  have hs : s.select = selectEvent .reset s.taken := by simp [State.select, h, State.taken]
  unfold step
  rw [hs]
  rfl

/-- A step is one of: a beat's effect, the sequencer's turn, reset. -/
theorem step_cases (s : State) :
    (∃ b, s.nextEvent.1 = .beat b ∧ BeatEffect s.taken b (step s))
      ∨ (s.nextEvent.1 = .sequencer
        ∧ step s = if s.taken.roundReady then microOutcome s.taken.runRound else .next s.taken)
      ∨ (s.nextEvent.1 = .reset ∧ step s = .next s.taken.clear) := by
  cases h : s.nextEvent.1 with
  | beat b => exact .inl ⟨b, rfl, step_beat h⟩
  | sequencer => exact .inr (.inl ⟨rfl, step_sequencer h⟩)
  | reset => exact .inr (.inr ⟨rfl, step_reset h⟩)

/-- The head of the list is the next event. -/
theorem nextEvent_cons {s : State} {e : Event} {rest : List Event} (h : s.inputs = e :: rest) :
    s.nextEvent = (e, rest) := by
  simp [State.nextEvent, h]

theorem taken_cons {s : State} {e : Event} {rest : List Event} (h : s.inputs = e :: rest) :
    s.taken = s.takeEvent rest := by
  simp [State.taken, nextEvent_cons h]

/-- A step whose next event is a beat, by the list. -/
theorem step_beat_cons {s : State} {b : Beat} {rest : List Event} (h : s.inputs = .beat b :: rest) :
    BeatEffect (s.takeEvent rest) b (step s) := by
  have := step_beat (s := s) (b := b) (by simp [nextEvent_cons h])
  rwa [taken_cons h] at this

/-- When the sequencer has a step (41 R131). -/
theorem roundReady_iff (s : State) : s.roundReady = true ↔ s.phase = .run ∧ s.round.toNat < 16 := by
  simp [State.roundReady]

/-- LOAD's precondition (41 R133). -/
theorem loadReady_iff (s : State) :
    s.loadReady = true ↔ (s.phase = .idle ∨ s.phase = .done) ∧ tablesOk s.cfg = true ∧ s.keyvalid = 0b11#2 := by
  simp [State.loadReady, and_assoc]

end Sys2Proof.Machine
end

