-- ==== Sys2Proof/Laws/Calls.lean ====
section
/-! SUPPORT. Runs step by step, and what the rounds of a call make of the halves under good tables. -/

namespace Sys2Proof.Machine

/-- A run of one more step than `k`, from its first step. -/
theorem run_succ {s u : State} (k : Nat) (h : step s = .next u) :
    Sys2Proof.core.run (k + 1) s = Sys2Proof.core.run k u := by
  have h' : Sys2Proof.core.step s = .next u := h
  simp only [Host.Core.run, h']

/-- A run that answers a next state has a first step that does. -/
theorem run_succ_eq_next {s t : State} {k : Nat} (h : Sys2Proof.core.run (k + 1) s = .next t) :
    ∃ u, step s = .next u ∧ Sys2Proof.core.run k u = .next t := by
  simp only [Host.Core.run] at h
  cases h' : Sys2Proof.core.step s with
  | next u => rw [h'] at h; exact ⟨u, h', h⟩
  | fault r => rw [h'] at h; cases h
  | refused r => rw [h'] at h; cases h

/-- Rotations of a half add up (40 R112). -/
theorem rotHalf_rotHalf (c : Buf 28) (a b : Nat) : rotHalf (rotHalf c a) b = rotHalf c (a + b) := by
  apply buf_ext
  intro i hi
  have : (i + b) % 28 < 28 := Nat.mod_lt _ (by decide)
  simp only [bitAt_rotHalf, hi, this, decide_true, Bool.true_and]
  congr 1
  omega

/-- Only the amount modulo 28 counts (40 R117). -/
theorem rotHalf_mod (c : Buf 28) (a : Nat) : rotHalf c (a % 28) = rotHalf c a := by
  apply buf_ext
  intro i hi
  simp only [bitAt_rotHalf, Nat.add_mod_mod]

/-- The SHIFTS entry of a round heads the rest of the schedule. -/
theorem shifts_drop {cfg : Config.Tables} {a : Nat} (h : cfg.shifts[r]? = some a) :
    cfg.shifts.drop r = a :: cfg.shifts.drop (r + 1) := by
  obtain ⟨hlt, rfl⟩ := List.getElem?_eq_some_iff.mp h
  exact List.drop_eq_getElem_cons hlt

/-- The `k`-th subkey of the rounds from `r` on, from the halves they start with (41 R139). -/
theorem roundsFrom_getElem? {cfg : Config.Tables} (h : GoodTables cfg) (n r : Nat) (hr : r + n ≤ 16) (c d : Buf 28) :
    ∃ l, roundsFrom cfg n r c d = some l ∧ l.length = n
      ∧ ∀ k, k < n → l[k]? = some (permuteHalves cfg
          (rotHalf c ((cfg.shifts.drop r).take (k + 1)).sum) (rotHalf d ((cfg.shifts.drop r).take (k + 1)).sum)) := by
  induction n generalizing r c d with
  | zero => exact ⟨[], rfl, rfl, fun k hk => absurd hk (Nat.not_lt_zero k)⟩
  | succ n ih =>
    obtain ⟨a, ha, -⟩ := shifts_getElem h (show r < 16 by omega)
    obtain ⟨l, hl, hlen, hg⟩ := ih (r + 1) (by omega) (rotHalf c a) (rotHalf d a)
    refine ⟨permuteHalves cfg (rotHalf c a) (rotHalf d a) :: l,
      by simp only [roundsFrom, roundOf_of_good h _ _ ha, hl, Option.map_some], by rw [List.length_cons, hlen], ?_⟩
    intro k hk
    rw [shifts_drop ha]
    cases k with
    | zero => simp
    | succ k =>
      simp only [List.getElem?_cons_succ]
      rw [hg k (by omega)]
      simp only [rotHalf_rotHalf, List.take_succ_cons, List.sum_cons]

/-- `derive_subkeys` under good tables: the sixteen rounds from the halves of PC1 (41 R130). -/
theorem deriveSubkeys_of_good {cfg : Config.Tables} (h : GoodTables cfg) {key : Buf 64} {c d : Buf 28}
    (hs : splitKey cfg key = some (c, d)) : deriveSubkeys cfg key = roundsFrom cfg 16 0 c d := by
  simp [deriveSubkeys, (tablesOk_iff cfg).mpr h, hs]

end Sys2Proof.Machine
end

