-- ==== Sys2Proof/Laws/PerInstr.lean ====
section
/-! SUPPORT. Statements made per instruction, one lemma for each constructor. -/

/-- The encoding of an instruction, where it has one, is an aligned beat, and its data is 0 when it is a read
(30_encoding.md R81, R82; log 17). -/
def Sys2Proof.Laws.EncodesAligned.Statement (i : Sys2Proof.Instr) : Prop :=
  ∀ b : Sys2Proof.Beat, Sys2Proof.encodeBeat i = some b →
    b.addr.extractLsb' 0 2 = 0#2 ∧ (b.we = false → b.wdata = 0#32)

/-- A read beat of a mapped word is aligned and carries no data. -/
theorem Sys2Proof.Laws.readBeat_aligned {i : Sys2Proof.Instr} {r : Sys2Proof.PortReg}
    (h : Sys2Proof.encodeBeat i = some (Sys2Proof.readBeat r)) : Sys2Proof.Laws.EncodesAligned.Statement i := by
  intro b hb
  obtain rfl := Option.some.inj (h.symm.trans hb)
  exact ⟨Sys2Proof.addr_aligned r, fun _ => rfl⟩

/-- A write beat of a mapped word is aligned. -/
theorem Sys2Proof.Laws.writeBeat_aligned {i : Sys2Proof.Instr} {r : Sys2Proof.PortReg} {v : Sys2Proof.Word}
    (h : Sys2Proof.encodeBeat i = some (Sys2Proof.writeBeat r v)) : Sys2Proof.Laws.EncodesAligned.Statement i := by
  intro b hb
  obtain rfl := Option.some.inj (h.symm.trans hb)
  exact ⟨Sys2Proof.addr_aligned r, fun hw => Bool.noConfusion hw⟩

/-- An instruction without bits of its own has no beat (30_encoding.md R80). -/
theorem Sys2Proof.Laws.noBeat_aligned {i : Sys2Proof.Instr} (h : Sys2Proof.encodeBeat i = none) :
    Sys2Proof.Laws.EncodesAligned.Statement i := by
  intro b hb
  cases h.symm.trans hb

theorem Sys2Proof.Laws.EncodesAligned.wrCmdNop :
    Sys2Proof.Laws.EncodesAligned.Statement .wrCmdNop := Sys2Proof.Laws.writeBeat_aligned rfl

theorem Sys2Proof.Laws.EncodesAligned.wrCmdStart :
    Sys2Proof.Laws.EncodesAligned.Statement .wrCmdStart := Sys2Proof.Laws.writeBeat_aligned rfl

theorem Sys2Proof.Laws.EncodesAligned.wrCmdClear :
    Sys2Proof.Laws.EncodesAligned.Statement .wrCmdClear := Sys2Proof.Laws.writeBeat_aligned rfl

theorem Sys2Proof.Laws.EncodesAligned.wrKey0 (v : Sys2Proof.Word) :
    Sys2Proof.Laws.EncodesAligned.Statement (.wrKey0 v) := Sys2Proof.Laws.writeBeat_aligned rfl

theorem Sys2Proof.Laws.EncodesAligned.wrKey1 (v : Sys2Proof.Word) :
    Sys2Proof.Laws.EncodesAligned.Statement (.wrKey1 v) := Sys2Proof.Laws.writeBeat_aligned rfl

theorem Sys2Proof.Laws.EncodesAligned.rdStatus :
    Sys2Proof.Laws.EncodesAligned.Statement .rdStatus := Sys2Proof.Laws.readBeat_aligned rfl

theorem Sys2Proof.Laws.EncodesAligned.rdErrinfo :
    Sys2Proof.Laws.EncodesAligned.Statement .rdErrinfo := Sys2Proof.Laws.readBeat_aligned rfl

theorem Sys2Proof.Laws.EncodesAligned.rdDbgC :
    Sys2Proof.Laws.EncodesAligned.Statement .rdDbgC := Sys2Proof.Laws.readBeat_aligned rfl

theorem Sys2Proof.Laws.EncodesAligned.rdDbgD :
    Sys2Proof.Laws.EncodesAligned.Statement .rdDbgD := Sys2Proof.Laws.readBeat_aligned rfl

theorem Sys2Proof.Laws.EncodesAligned.rdSk0Hi :
    Sys2Proof.Laws.EncodesAligned.Statement .rdSk0Hi := Sys2Proof.Laws.readBeat_aligned rfl

theorem Sys2Proof.Laws.EncodesAligned.rdSk0Lo :
    Sys2Proof.Laws.EncodesAligned.Statement .rdSk0Lo := Sys2Proof.Laws.readBeat_aligned rfl

theorem Sys2Proof.Laws.EncodesAligned.rdSk1Hi :
    Sys2Proof.Laws.EncodesAligned.Statement .rdSk1Hi := Sys2Proof.Laws.readBeat_aligned rfl

theorem Sys2Proof.Laws.EncodesAligned.rdSk1Lo :
    Sys2Proof.Laws.EncodesAligned.Statement .rdSk1Lo := Sys2Proof.Laws.readBeat_aligned rfl

theorem Sys2Proof.Laws.EncodesAligned.rdSk2Hi :
    Sys2Proof.Laws.EncodesAligned.Statement .rdSk2Hi := Sys2Proof.Laws.readBeat_aligned rfl

theorem Sys2Proof.Laws.EncodesAligned.rdSk2Lo :
    Sys2Proof.Laws.EncodesAligned.Statement .rdSk2Lo := Sys2Proof.Laws.readBeat_aligned rfl

theorem Sys2Proof.Laws.EncodesAligned.rdSk3Hi :
    Sys2Proof.Laws.EncodesAligned.Statement .rdSk3Hi := Sys2Proof.Laws.readBeat_aligned rfl

theorem Sys2Proof.Laws.EncodesAligned.rdSk3Lo :
    Sys2Proof.Laws.EncodesAligned.Statement .rdSk3Lo := Sys2Proof.Laws.readBeat_aligned rfl

theorem Sys2Proof.Laws.EncodesAligned.rdSk4Hi :
    Sys2Proof.Laws.EncodesAligned.Statement .rdSk4Hi := Sys2Proof.Laws.readBeat_aligned rfl

theorem Sys2Proof.Laws.EncodesAligned.rdSk4Lo :
    Sys2Proof.Laws.EncodesAligned.Statement .rdSk4Lo := Sys2Proof.Laws.readBeat_aligned rfl

theorem Sys2Proof.Laws.EncodesAligned.rdSk5Hi :
    Sys2Proof.Laws.EncodesAligned.Statement .rdSk5Hi := Sys2Proof.Laws.readBeat_aligned rfl

theorem Sys2Proof.Laws.EncodesAligned.rdSk5Lo :
    Sys2Proof.Laws.EncodesAligned.Statement .rdSk5Lo := Sys2Proof.Laws.readBeat_aligned rfl

theorem Sys2Proof.Laws.EncodesAligned.rdSk6Hi :
    Sys2Proof.Laws.EncodesAligned.Statement .rdSk6Hi := Sys2Proof.Laws.readBeat_aligned rfl

theorem Sys2Proof.Laws.EncodesAligned.rdSk6Lo :
    Sys2Proof.Laws.EncodesAligned.Statement .rdSk6Lo := Sys2Proof.Laws.readBeat_aligned rfl

theorem Sys2Proof.Laws.EncodesAligned.rdSk7Hi :
    Sys2Proof.Laws.EncodesAligned.Statement .rdSk7Hi := Sys2Proof.Laws.readBeat_aligned rfl

theorem Sys2Proof.Laws.EncodesAligned.rdSk7Lo :
    Sys2Proof.Laws.EncodesAligned.Statement .rdSk7Lo := Sys2Proof.Laws.readBeat_aligned rfl

theorem Sys2Proof.Laws.EncodesAligned.rdSk8Hi :
    Sys2Proof.Laws.EncodesAligned.Statement .rdSk8Hi := Sys2Proof.Laws.readBeat_aligned rfl

theorem Sys2Proof.Laws.EncodesAligned.rdSk8Lo :
    Sys2Proof.Laws.EncodesAligned.Statement .rdSk8Lo := Sys2Proof.Laws.readBeat_aligned rfl

theorem Sys2Proof.Laws.EncodesAligned.rdSk9Hi :
    Sys2Proof.Laws.EncodesAligned.Statement .rdSk9Hi := Sys2Proof.Laws.readBeat_aligned rfl

theorem Sys2Proof.Laws.EncodesAligned.rdSk9Lo :
    Sys2Proof.Laws.EncodesAligned.Statement .rdSk9Lo := Sys2Proof.Laws.readBeat_aligned rfl

theorem Sys2Proof.Laws.EncodesAligned.rdSk10Hi :
    Sys2Proof.Laws.EncodesAligned.Statement .rdSk10Hi := Sys2Proof.Laws.readBeat_aligned rfl

theorem Sys2Proof.Laws.EncodesAligned.rdSk10Lo :
    Sys2Proof.Laws.EncodesAligned.Statement .rdSk10Lo := Sys2Proof.Laws.readBeat_aligned rfl

theorem Sys2Proof.Laws.EncodesAligned.rdSk11Hi :
    Sys2Proof.Laws.EncodesAligned.Statement .rdSk11Hi := Sys2Proof.Laws.readBeat_aligned rfl

theorem Sys2Proof.Laws.EncodesAligned.rdSk11Lo :
    Sys2Proof.Laws.EncodesAligned.Statement .rdSk11Lo := Sys2Proof.Laws.readBeat_aligned rfl

theorem Sys2Proof.Laws.EncodesAligned.rdSk12Hi :
    Sys2Proof.Laws.EncodesAligned.Statement .rdSk12Hi := Sys2Proof.Laws.readBeat_aligned rfl

theorem Sys2Proof.Laws.EncodesAligned.rdSk12Lo :
    Sys2Proof.Laws.EncodesAligned.Statement .rdSk12Lo := Sys2Proof.Laws.readBeat_aligned rfl

theorem Sys2Proof.Laws.EncodesAligned.rdSk13Hi :
    Sys2Proof.Laws.EncodesAligned.Statement .rdSk13Hi := Sys2Proof.Laws.readBeat_aligned rfl

theorem Sys2Proof.Laws.EncodesAligned.rdSk13Lo :
    Sys2Proof.Laws.EncodesAligned.Statement .rdSk13Lo := Sys2Proof.Laws.readBeat_aligned rfl

theorem Sys2Proof.Laws.EncodesAligned.rdSk14Hi :
    Sys2Proof.Laws.EncodesAligned.Statement .rdSk14Hi := Sys2Proof.Laws.readBeat_aligned rfl

theorem Sys2Proof.Laws.EncodesAligned.rdSk14Lo :
    Sys2Proof.Laws.EncodesAligned.Statement .rdSk14Lo := Sys2Proof.Laws.readBeat_aligned rfl

theorem Sys2Proof.Laws.EncodesAligned.rdSk15Hi :
    Sys2Proof.Laws.EncodesAligned.Statement .rdSk15Hi := Sys2Proof.Laws.readBeat_aligned rfl

theorem Sys2Proof.Laws.EncodesAligned.rdSk15Lo :
    Sys2Proof.Laws.EncodesAligned.Statement .rdSk15Lo := Sys2Proof.Laws.readBeat_aligned rfl

theorem Sys2Proof.Laws.EncodesAligned.round :
    Sys2Proof.Laws.EncodesAligned.Statement .round := Sys2Proof.Laws.noBeat_aligned rfl

theorem Sys2Proof.Laws.EncodesAligned.load :
    Sys2Proof.Laws.EncodesAligned.Statement .load := Sys2Proof.Laws.noBeat_aligned rfl

theorem Sys2Proof.Laws.EncodesAligned.getBit (b : Sys2Proof.Buffer) (pos : Nat) :
    Sys2Proof.Laws.EncodesAligned.Statement (.getBit b pos) := Sys2Proof.Laws.noBeat_aligned rfl

theorem Sys2Proof.Laws.EncodesAligned.setBit (b : Sys2Proof.Buffer) (pos : Nat) (value : Bool) :
    Sys2Proof.Laws.EncodesAligned.Statement (.setBit b pos value) := Sys2Proof.Laws.noBeat_aligned rfl

theorem Sys2Proof.Laws.EncodesAligned.selectRange (b : Sys2Proof.Buffer) (start length : Nat) :
    Sys2Proof.Laws.EncodesAligned.Statement (.selectRange b start length) := Sys2Proof.Laws.noBeat_aligned rfl

theorem Sys2Proof.Laws.EncodesAligned.selectByTable (b : Sys2Proof.Buffer) (table : List Nat) :
    Sys2Proof.Laws.EncodesAligned.Statement (.selectByTable b table) := Sys2Proof.Laws.noBeat_aligned rfl

theorem Sys2Proof.Laws.EncodesAligned.rotateLeft (b : Sys2Proof.Buffer) (bitLength amount : Nat) :
    Sys2Proof.Laws.EncodesAligned.Statement (.rotateLeft b bitLength amount) := Sys2Proof.Laws.noBeat_aligned rfl

theorem Sys2Proof.Laws.EncodesAligned.concatenate (a : Sys2Proof.Buffer) (bitLengthA : Nat) (b : Sys2Proof.Buffer) (bitLengthB : Nat) :
    Sys2Proof.Laws.EncodesAligned.Statement (.concatenate a bitLengthA b bitLengthB) := Sys2Proof.Laws.noBeat_aligned rfl
end

