-- ==== Sys2Proof/Laws/Reads.lean ====
section
/-! SUPPORT. The bits of the words STATUS and ERRINFO, the bits KEYVALID gets, and the sixteen subkey reads as one. -/

namespace Sys2Proof.Machine

/-- The bits of STATUS (10_state.md R32). -/
theorem statusWord_bit (s : State) (i : Nat) : s.statusWord.getLsbD i =
    if i < 2 then s.phase.code.getLsbD i
    else if i < 4 then s.keyvalid.getLsbD (i - 2)
    else if i < 9 then s.round.getLsbD (i - 4) else false := by
  have e : s.statusWord.getLsbD i
      = BitVec.getLsbD (w := 23 + 5 + 2 + 2) (0#23 ++ s.round ++ s.keyvalid ++ s.phase.code) i := rfl
  have h1 : (i - 2 < 2) ↔ i < 4 := by omega
  have h2 : (i - 2 - 2 < 5) ↔ i < 9 := by omega
  rw [e, BitVec.getLsbD_append, BitVec.getLsbD_append, BitVec.getLsbD_append]
  split
  · rfl
  · simp only [h1, h2]
    simp [Nat.sub_sub]

/-- The bits of ERRINFO (10_state.md R33). -/
theorem errinfoWord_bit (s : State) (i : Nat) : s.errinfoWord.getLsbD i =
    if i < 4 then s.cause.code.getLsbD i
    else if i < 5 then s.errWe
    else if i < 8 then false
    else if i < 16 then s.errAddr.getLsbD (i - 8) else false := by
  have e : s.errinfoWord.getLsbD i
      = BitVec.getLsbD (w := 16 + 8 + 3 + 1 + 4)
          (0#16 ++ s.errAddr ++ 0#3 ++ BitVec.ofBool s.errWe ++ s.cause.code) i := rfl
  have h1 : (i - 4 < 1) ↔ i < 5 := by omega
  have h2 : (i - 4 - 1 < 3) ↔ i < 8 := by omega
  have h3 : (i - 4 - 1 - 3 < 8) ↔ i < 16 := by omega
  rw [e, BitVec.getLsbD_append, BitVec.getLsbD_append, BitVec.getLsbD_append, BitVec.getLsbD_append]
  split
  · rfl
  · simp only [h1, h2, h3]
    simp only [Nat.sub_sub]
    split
    · have : i - 4 = 0 := by omega
      rw [this]
      cases s.errWe <;> rfl
    · simp

/-- WR KEY0 sets KEYVALID[0] and leaves KEYVALID[1] (10_state.md R22). -/
theorem setKey0Valid_bits : ∀ kv : BitVec 2,
    (setKey0Valid kv).getLsbD 0 = true ∧ (setKey0Valid kv).getLsbD 1 = kv.getLsbD 1 := by decide

/-- WR KEY1 sets KEYVALID[1] and leaves KEYVALID[0] (10_state.md R22). -/
theorem setKey1Valid_bits : ∀ kv : BitVec 2,
    (setKey1Valid kv).getLsbD 1 = true ∧ (setKey1Valid kv).getLsbD 0 = kv.getLsbD 0 := by decide

theorem skHiReads_eq : ∀ p ∈ skHiReads, p.1 = rdSkHi p.2 := by decide

theorem skLoReads_eq : ∀ p ∈ skLoReads, p.1 = rdSkLo p.2 := by decide

/-- RD SKn_HI is one operation for every n (42 R172). -/
theorem exec_rdSkHi (n : Fin 16) (s : State) : exec (rdSkHi n) s = readSkHi n s := by
  obtain ⟨n, hn⟩ := n
  interval_cases n <;> rfl

/-- RD SKn_LO is one operation for every n (42 R173). -/
theorem exec_rdSkLo (n : Fin 16) (s : State) : exec (rdSkLo n) s = readSkLo n s := by
  obtain ⟨n, hn⟩ := n
  interval_cases n <;> rfl

end Sys2Proof.Machine
end

