-- ==== Sys2Proof/Tests/Slice0.lean ====
section
/-! SUPPORT. Tests on small states: the ill-formed terms WellFormed refuses, the decoding of words written out from the
spec, one step or one operation for each instruction with the expected values of 95_test_vectors.md (the vector's number is
in the test's comment), and for every obligation with hypotheses a state that meets them. -/

namespace Sys2Proof.Tests

-- One theorem at a time: each waits for the kernel, and each waiting thread reserves memory for its stack.
set_option Elab.async false

open Sys2Proof Sys2Proof.Machine

/-! ### Helpers -/

/-- The outcome is a next state of which `P` holds. -/
def nextIs (o : Outcome) (P : State → Prop) [DecidablePred P] : Bool :=
  match o with
  | .next t => decide (P t)
  | .fault _ => false
  | .refused _ => false

/-- What `nextIs` says. -/
theorem exists_of_nextIs {o : Outcome} {P : State → Prop} [DecidablePred P] (h : nextIs o P = true) :
    ∃ t, o = .next t ∧ P t := by
  cases o with
  | next t => exact ⟨t, rfl, of_decide_eq_true h⟩
  | fault r => cases h
  | refused r => cases h

/-- One step that takes the beat of 41 bits `w`. -/
def stepBeat (w : Nat) (s : State) : Outcome := step (s.withFetchWord 41 w)

/-- The beat's response and what STATUS and ERRINFO read after it. -/
def beatGives (w : Nat) (s : State) (rdata : Word) (err : Bool) (status errinfo : Word) : Bool :=
  nextIs (stepBeat w s) fun t => t.rdata = rdata ∧ t.err = err ∧ t.statusWord = status ∧ t.errinfoWord = errinfo

/-- After trap entry nothing derived from a key is held (60 R210). -/
def withdrawn (w : Nat) (s : State) : Bool :=
  nextIs (stepBeat w s) fun t => t.key0 = none ∧ t.key1 = none ∧ t.c = none ∧ t.d = none
    ∧ t.subkey = Vector.replicate 16 none ∧ t.errorO = true

/-- Both key words of the test key written in IDLE (V43). -/
def keyed : State :=
  { State.reset with key0 := some 0x13345779#32, key1 := some 0x9BBCDFF1#32, keyvalid := 0b11#2 }

/-- One half of the test key written (V42). -/
def halfKeyed : State := { State.reset with key0 := some 0x13345779#32, keyvalid := 0b01#2 }

/-- RUN after START with the test key, no round done (V46). -/
def run0 : State := { State.reset with phase := .run, c := some 0xF0CCAAF#28, d := some 0x556678F#28 }

/-- RUN with `r` rounds done and the halves given; the subkeys done so far are the first of V1. -/
def runAt (r : Nat) (c d : Buf 28) (subkeys : List (Buf 48)) : State :=
  { State.reset with
    phase := .run, round := BitVec.ofNat 5 r, c := some c, d := some d, subkey := Vector.ofFn fun i => subkeys[i.val]? }

/-- RUN after one round (V1 row 1). -/
def run1 : State := runAt 1 0xE19955F#28 0xAACCF1E#28 [0x1B02EFFC7072#48]

/-- RUN after two rounds (V1 row 2). -/
def run2 : State := runAt 2 0xC332ABF#28 0x5599E3D#28 [0x1B02EFFC7072#48, 0x79AED9DBC9E5#48]

/-- RUN after fifteen rounds with halves of zeros (the all-zero key, V20). -/
def run15 : State := runAt 15 0#28 0#28 (List.replicate 15 0#48)

/-- The sixteen subkeys of V1. -/
def v1Subkeys : List (Buf 48) :=
  [0x1B02EFFC7072#48, 0x79AED9DBC9E5#48, 0x55FC8A42CF99#48, 0x72ADD6DB351D#48, 0x7CEC07EB53A8#48,
   0x63A53E507B2F#48, 0xEC84B7F618BC#48, 0xF78A3AC13BFB#48, 0xE0DBEBEDE781#48, 0xB1F347BA464F#48,
   0x215FD3DED386#48, 0x7571F59467E9#48, 0x97C5D1FABA41#48, 0x5F43B7F2E73A#48, 0xBF918D3D3F0A#48, 0xCB3D8B0E17F5#48]

/-- DONE with the test key (V1). -/
def done : State :=
  { State.reset with
    phase := .done, round := 16#5, c := some 0xF0CCAAF#28, d := some 0x556678F#28
    subkey := Vector.ofFn fun i => v1Subkeys[i.val]? }

/-- ERROR with ERRINFO = 0x00000011 (the state before V100). -/
def inError : State := { State.reset with phase := .error, cause := .keylen, errWe := true }

/-- Tables whose SHIFTS sum to 29 (V74). -/
def badShifts : Config.Tables := { defaultTables with shifts := defaultTables.shifts.set 15 2 }

/-- Tables whose PC2 has an entry 57 (V75). -/
def badPc2 : Config.Tables := { defaultTables with pc2 := defaultTables.pc2.set 0 57 }

/-- The buffer A5C3/16 of 95_test_vectors.md section 3. -/
def a5c3 : Buffer := ⟨16, 0xA5C3#16⟩

/-- The buffer F0CCAAF/28. -/
def f0ccaaf : Buffer := ⟨28, 0xF0CCAAF#28⟩

/-! ### WellFormed refuses an ill-formed term for each of its checks -/

theorem test_wf_get_bit : (Instr.getBit a5c3 16).wf = false ∧ (Instr.getBit a5c3 15).wf = true := by decide

theorem test_wf_set_bit : (Instr.setBit a5c3 16 false).wf = false ∧ (Instr.setBit a5c3 15 false).wf = true := by decide

theorem test_wf_select_range :
    (Instr.selectRange a5c3 12 5).wf = false ∧ (Instr.selectRange a5c3 12 4).wf = true := by decide

theorem test_wf_select_by_table :
    (Instr.selectByTable a5c3 [1, 17, 2]).wf = false ∧ (Instr.selectByTable a5c3 [0]).wf = false
      ∧ (Instr.selectByTable a5c3 [16, 1, 1]).wf = true := by decide

theorem test_wf_rotate_left :
    (Instr.rotateLeft f0ccaaf 29 1).wf = false ∧ (Instr.rotateLeft f0ccaaf 28 28).wf = false
      ∧ (Instr.rotateLeft f0ccaaf 0 0).wf = false ∧ (Instr.rotateLeft f0ccaaf 28 27).wf = true := by decide

theorem test_wf_concatenate :
    (Instr.concatenate a5c3 17 a5c3 16).wf = false ∧ (Instr.concatenate a5c3 16 a5c3 17).wf = false
      ∧ (Instr.concatenate a5c3 16 a5c3 16).wf = true := by decide

theorem test_wf_beats : (Instr.wrKey0 0xFFFFFFFF#32).wf = true ∧ Instr.rdSk15Lo.wf = true ∧ Instr.load.wf = true := by decide

/-- A table of a wrong length, an entry out of range, a schedule entry that is neither 1 nor 2, a wrong sum (40 R110). -/
theorem test_tables_ok : tablesOk defaultTables = true ∧ tablesOk badShifts = false ∧ tablesOk badPc2 = false
    ∧ tablesOk { defaultTables with pc1 := defaultTables.pc1.set 0 65 } = false
    ∧ tablesOk { defaultTables with pc1 := defaultTables.pc1.set 0 0 } = false
    ∧ tablesOk { defaultTables with pc1 := defaultTables.pc1.take 55 } = false
    ∧ tablesOk { defaultTables with shifts := (defaultTables.shifts.set 0 0).set 1 2 } = false
    ∧ tablesOk { defaultTables with pc1 := List.replicate 56 64 } = true := by decide

/-! ### Decoding of words written out from the spec (30 R81, R86, R88; 95_test_vectors.md) -/

theorem test_decode_commands :
    decodeTableWord 41 0x10000000000 = some .wrCmdNop ∧ decodeTableWord 41 0x10000000001 = some .wrCmdStart
      ∧ decodeTableWord 41 0x10000000002 = some .wrCmdClear ∧ decodeTableWord 41 0x10000000010 = none
      ∧ decodeTableWord 41 0x1000000000F = none ∧ decodeTableWord 41 0x10080000001 = none := by decide

theorem test_decode_key_writes :
    decodeTableWord 41 0x11013345779 = some (.wrKey0 0x13345779#32)
      ∧ decodeTableWord 41 0x1149BBCDFF1 = some (.wrKey1 0x9BBCDFF1#32)
      ∧ decodeTableWord 41 0x01000000000 = none ∧ decodeTableWord 41 0x01400000000 = none := by decide

/-- A read's wdata is ignored (30 R81). -/
theorem test_decode_status_reads :
    decodeTableWord 41 0x00400000000 = some .rdStatus ∧ decodeTableWord 41 0x00800000000 = some .rdErrinfo
      ∧ decodeTableWord 41 0x02000000000 = some .rdDbgC ∧ decodeTableWord 41 0x02400000000 = some .rdDbgD
      ∧ decodeTableWord 41 0x004DEADBEEF = some .rdStatus ∧ decodeTableWord 41 0x00000000000 = none
      ∧ decodeTableWord 41 0x10400000000 = none := by decide

theorem test_decode_subkey_high_reads :
    decodeTableWord 41 0x04000000000 = some .rdSk0Hi ∧ decodeTableWord 41 0x04800000000 = some .rdSk1Hi
      ∧ decodeTableWord 41 0x05000000000 = some .rdSk2Hi ∧ decodeTableWord 41 0x05800000000 = some .rdSk3Hi
      ∧ decodeTableWord 41 0x06000000000 = some .rdSk4Hi ∧ decodeTableWord 41 0x06800000000 = some .rdSk5Hi
      ∧ decodeTableWord 41 0x07000000000 = some .rdSk6Hi ∧ decodeTableWord 41 0x07800000000 = some .rdSk7Hi
      ∧ decodeTableWord 41 0x08000000000 = some .rdSk8Hi ∧ decodeTableWord 41 0x08800000000 = some .rdSk9Hi
      ∧ decodeTableWord 41 0x09000000000 = some .rdSk10Hi ∧ decodeTableWord 41 0x09800000000 = some .rdSk11Hi
      ∧ decodeTableWord 41 0x0A000000000 = some .rdSk12Hi ∧ decodeTableWord 41 0x0A800000000 = some .rdSk13Hi
      ∧ decodeTableWord 41 0x0B000000000 = some .rdSk14Hi ∧ decodeTableWord 41 0x0B800000000 = some .rdSk15Hi := by decide

theorem test_decode_subkey_low_reads :
    decodeTableWord 41 0x04400000000 = some .rdSk0Lo ∧ decodeTableWord 41 0x04C00000000 = some .rdSk1Lo
      ∧ decodeTableWord 41 0x05400000000 = some .rdSk2Lo ∧ decodeTableWord 41 0x05C00000000 = some .rdSk3Lo
      ∧ decodeTableWord 41 0x06400000000 = some .rdSk4Lo ∧ decodeTableWord 41 0x06C00000000 = some .rdSk5Lo
      ∧ decodeTableWord 41 0x07400000000 = some .rdSk6Lo ∧ decodeTableWord 41 0x07C00000000 = some .rdSk7Lo
      ∧ decodeTableWord 41 0x08400000000 = some .rdSk8Lo ∧ decodeTableWord 41 0x08C00000000 = some .rdSk9Lo
      ∧ decodeTableWord 41 0x09400000000 = some .rdSk10Lo ∧ decodeTableWord 41 0x09C00000000 = some .rdSk11Lo
      ∧ decodeTableWord 41 0x0A400000000 = some .rdSk12Lo ∧ decodeTableWord 41 0x0AC00000000 = some .rdSk13Lo
      ∧ decodeTableWord 41 0x0B400000000 = some .rdSk14Lo ∧ decodeTableWord 41 0x0BC00000000 = some .rdSk15Lo := by decide

theorem test_decode_positions :
    decodeTableWord 7 0b0100000 = some .round ∧ decodeTableWord 7 0b0101111 = some .round
      ∧ decodeTableWord 7 0b0110000 = none ∧ decodeTableWord 7 0b0000000 = none
      ∧ decodeTableWord 7 0b1010000 = none ∧ decodeTableWord 7 0b1100101 = none := by decide

/-- Bytes of no format, and six bytes with a bit above the 41 of a beat (log 12). -/
theorem test_decode_no_format :
    decode [] = .error .noFormat ∧ decode [0, 0] = .error .noFormat ∧ decode [0, 0, 0, 0, 4, 2] = .error .notABeat
      ∧ decode [0, 0, 0, 0, 4, 0] = .ok .rdStatus := by decide

/-! ### The next step runs the word that is placed, as the first after reset (log 13) -/

/-- The position 0100000 in the table's numbering runs ROUND: RUN with one round done, over free halves. -/
theorem test_fetch_round :
    nextIs (step (State.reset.withFetchWord 7 0b0100000)) (fun t => t.phase = .run ∧ t.round = 1#5) = true := by
  decide +kernel

/-- Nothing happens on its own after reset (70 R242). -/
theorem test_reset_waits : nextIs (step State.reset) (fun t => State.reset.SameRegisters t) = true := by
  decide

/-! ### Commands -/

/-- V52, V64. -/
theorem test_nop :
    beatGives 0x10000000000 { run0 with round := 5#5 } 0 false 0x00000051 0 = true
      ∧ beatGives 0x10000000000 inError 0 false 0x00000003 0x00000011 = true := by decide

/-- V46. -/
theorem test_start_accepted :
    nextIs (stepBeat 0x10000000001 keyed) (fun t => t.c = some 0xF0CCAAF#28 ∧ t.d = some 0x556678F#28 ∧ t.round = 0#5
      ∧ t.statusWord = 0x00000001#32 ∧ t.key0 = none ∧ t.key1 = none ∧ t.subkey = Vector.replicate 16 none
      ∧ t.busyO = true ∧ t.err = false) = true := by decide +kernel

/-- V70, V71, V73 KEYLEN; V74 TABLE; V75 TABLE before KEYLEN; V76 SEQ; V100 refused. -/
theorem test_start_faults :
    beatGives 0x10000000001 State.reset 0 true 0x00000003 0x00000011 = true
      ∧ beatGives 0x10000000001 halfKeyed 0 true 0x00000003 0x00000011 = true
      ∧ beatGives 0x10000000001 done 0 true 0x00000103 0x00000011 = true ∧ withdrawn 0x10000000001 done = true
      ∧ beatGives 0x10000000001 { keyed with cfg := badShifts } 0 true 0x00000003 0x00000012 = true
      ∧ beatGives 0x10000000001 { State.reset with cfg := badPc2 } 0 true 0x00000003 0x00000012 = true
      ∧ beatGives 0x10000000001 { run1 with keyvalid := 0b11#2 } 0 true 0x00000013 0x00000014 = true
      ∧ beatGives 0x10000000001 inError 0 true 0x00000003 0x00000011 = true := by decide +kernel

/-- V60, V61, V65. -/
theorem test_clear :
    beatGives 0x10000000002 done 0 false 0 0 = true ∧ beatGives 0x10000000002 run2 0 false 0 0 = true
      ∧ beatGives 0x10000000002 inError 0 false 0 0 = true
      ∧ nextIs (stepBeat 0x10000000002 done) (fun t => State.reset.SameRegisters t) = true := by decide +kernel

/-! ### Key writes -/

/-- V42, V45, V53. -/
theorem test_wr_key0 :
    nextIs (stepBeat 0x11013345779 State.reset)
        (fun t => t.key0 = some 0x13345779#32 ∧ t.statusWord = 0x00000004#32 ∧ t.err = false) = true
      ∧ nextIs (stepBeat 0x11001234567 keyed) (fun t => t.key0 = some 0x01234567#32 ∧ t.keyvalid = 0b11#2) = true
      ∧ nextIs (stepBeat 0x110AAAAAAAA { run0 with round := 5#5 })
        (fun t => t.statusWord = 0x00000055#32 ∧ t.c = run0.c ∧ t.d = run0.d ∧ t.subkey = run0.subkey) = true := by
  decide +kernel

/-- V101. -/
theorem test_wr_key0_refused :
    beatGives 0x11013345779 inError 0 true 0x00000003 0x00000011 = true
      ∧ nextIs (stepBeat 0x11013345779 inError) (fun t => t.key0 = none) = true := by decide +kernel

/-- V43, V44. -/
theorem test_wr_key1 :
    nextIs (stepBeat 0x1149BBCDFF1 halfKeyed)
        (fun t => t.key1 = some 0x9BBCDFF1#32 ∧ t.key0 = some 0x13345779#32 ∧ t.statusWord = 0x0000000C#32) = true
      ∧ beatGives 0x1149BBCDFF1 State.reset 0 false 0x00000008 0 = true := by decide +kernel

/-- Program P2, cycle 5. -/
theorem test_wr_key1_refused : beatGives 0x1149BBCDFF1 inError 0 true 0x00000003 0x00000011 = true := by decide

/-! ### Status and debug reads -/

/-- V40, V51, V54, V62. -/
theorem test_rd_status :
    beatGives 0x00400000000 State.reset 0 false 0 0 = true
      ∧ beatGives 0x00400000000 { run0 with round := 5#5 } 0x00000051 false 0x00000051 0 = true
      ∧ beatGives 0x00400000000 done 0x00000102 false 0x00000102 0 = true
      ∧ beatGives 0x00400000000 inError 0x00000003 false 0x00000003 0x00000011 = true := by decide

/-- V41, V63; and an error at address 0xC0 by a read (V86). -/
theorem test_rd_errinfo :
    beatGives 0x00800000000 State.reset 0 false 0 0 = true
      ∧ beatGives 0x00800000000 inError 0x00000011 false 0x00000003 0x00000011 = true
      ∧ beatGives 0x00800000000 { inError with cause := .access, errAddr := 0xC0#8, errWe := false }
          0x0000C006 false 0x00000003 0x0000C006 = true := by decide

/-- V47, V49, V59. -/
theorem test_rd_dbg_c :
    beatGives 0x02000000000 run0 0xF0CCAAF0 false 0x00000001 0 = true
      ∧ beatGives 0x02000000000 run1 0xE19955F0 false 0x00000011 0 = true
      ∧ beatGives 0x02000000000 done 0xF0CCAAF0 false 0x00000102 0 = true := by decide +kernel

/-- V92, V103. -/
theorem test_rd_dbg_c_not_served :
    beatGives 0x02000000000 State.reset 0 true 0x00000003 0x00002007 = true
      ∧ beatGives 0x02000000000 inError 0 true 0x00000003 0x00000011 = true := by decide +kernel

/-- V48, V50. -/
theorem test_rd_dbg_d :
    beatGives 0x02400000000 run0 0x556678F0 false 0x00000001 0 = true
      ∧ beatGives 0x02400000000 run1 0xAACCF1E0 false 0x00000011 0 = true := by decide +kernel

/-- V93. -/
theorem test_rd_dbg_d_not_served : beatGives 0x02400000000 State.reset 0 true 0x00000003 0x00002407 = true := by
  decide +kernel

/-! ### Result reads in DONE with the test key (V1, V55 to V58) -/

theorem test_rd_sk0_hi : beatGives 0x04000000000 done 0x1B02EFFC false 0x00000102 0 = true := by decide +kernel

theorem test_rd_sk0_lo : beatGives 0x04400000000 done 0x70720000 false 0x00000102 0 = true := by decide +kernel

theorem test_rd_sk1_hi : beatGives 0x04800000000 done 0x79AED9DB false 0x00000102 0 = true := by decide +kernel

theorem test_rd_sk1_lo : beatGives 0x04C00000000 done 0xC9E50000 false 0x00000102 0 = true := by decide +kernel

theorem test_rd_sk2_hi : beatGives 0x05000000000 done 0x55FC8A42 false 0x00000102 0 = true := by decide +kernel

theorem test_rd_sk2_lo : beatGives 0x05400000000 done 0xCF990000 false 0x00000102 0 = true := by decide +kernel

theorem test_rd_sk3_hi : beatGives 0x05800000000 done 0x72ADD6DB false 0x00000102 0 = true := by decide +kernel

theorem test_rd_sk3_lo : beatGives 0x05C00000000 done 0x351D0000 false 0x00000102 0 = true := by decide +kernel

theorem test_rd_sk4_hi : beatGives 0x06000000000 done 0x7CEC07EB false 0x00000102 0 = true := by decide +kernel

theorem test_rd_sk4_lo : beatGives 0x06400000000 done 0x53A80000 false 0x00000102 0 = true := by decide +kernel

theorem test_rd_sk5_hi : beatGives 0x06800000000 done 0x63A53E50 false 0x00000102 0 = true := by decide +kernel

theorem test_rd_sk5_lo : beatGives 0x06C00000000 done 0x7B2F0000 false 0x00000102 0 = true := by decide +kernel

theorem test_rd_sk6_hi : beatGives 0x07000000000 done 0xEC84B7F6 false 0x00000102 0 = true := by decide +kernel

theorem test_rd_sk6_lo : beatGives 0x07400000000 done 0x18BC0000 false 0x00000102 0 = true := by decide +kernel

theorem test_rd_sk7_hi : beatGives 0x07800000000 done 0xF78A3AC1 false 0x00000102 0 = true := by decide +kernel

theorem test_rd_sk7_lo : beatGives 0x07C00000000 done 0x3BFB0000 false 0x00000102 0 = true := by decide +kernel

theorem test_rd_sk8_hi : beatGives 0x08000000000 done 0xE0DBEBED false 0x00000102 0 = true := by decide +kernel

theorem test_rd_sk8_lo : beatGives 0x08400000000 done 0xE7810000 false 0x00000102 0 = true := by decide +kernel

theorem test_rd_sk9_hi : beatGives 0x08800000000 done 0xB1F347BA false 0x00000102 0 = true := by decide +kernel

theorem test_rd_sk9_lo : beatGives 0x08C00000000 done 0x464F0000 false 0x00000102 0 = true := by decide +kernel

theorem test_rd_sk10_hi : beatGives 0x09000000000 done 0x215FD3DE false 0x00000102 0 = true := by decide +kernel

theorem test_rd_sk10_lo : beatGives 0x09400000000 done 0xD3860000 false 0x00000102 0 = true := by decide +kernel

theorem test_rd_sk11_hi : beatGives 0x09800000000 done 0x7571F594 false 0x00000102 0 = true := by decide +kernel

theorem test_rd_sk11_lo : beatGives 0x09C00000000 done 0x67E90000 false 0x00000102 0 = true := by decide +kernel

theorem test_rd_sk12_hi : beatGives 0x0A000000000 done 0x97C5D1FA false 0x00000102 0 = true := by decide +kernel

theorem test_rd_sk12_lo : beatGives 0x0A400000000 done 0xBA410000 false 0x00000102 0 = true := by decide +kernel

theorem test_rd_sk13_hi : beatGives 0x0A800000000 done 0x5F43B7F2 false 0x00000102 0 = true := by decide +kernel

theorem test_rd_sk13_lo : beatGives 0x0AC00000000 done 0xE73A0000 false 0x00000102 0 = true := by decide +kernel

theorem test_rd_sk14_hi : beatGives 0x0B000000000 done 0xBF918D3D false 0x00000102 0 = true := by decide +kernel

theorem test_rd_sk14_lo : beatGives 0x0B400000000 done 0x3F0A0000 false 0x00000102 0 = true := by decide +kernel

theorem test_rd_sk15_hi : beatGives 0x0B800000000 done 0xCB3D8B0E false 0x00000102 0 = true := by decide +kernel

theorem test_rd_sk15_lo : beatGives 0x0BC00000000 done 0x17F50000 false 0x00000102 0 = true := by decide +kernel

/-- V94, V95, V102. -/
theorem test_rd_sk0_hi_not_served :
    beatGives 0x04000000000 State.reset 0 true 0x00000003 0x00004007 = true
      ∧ beatGives 0x04000000000 { run2 with round := 3#5 } 0 true 0x00000033 0x00004007 = true
      ∧ withdrawn 0x04000000000 run2 = true
      ∧ beatGives 0x04000000000 inError 0 true 0x00000003 0x00000011 = true := by decide +kernel

/-- V96. -/
theorem test_rd_sk15_lo_not_served : beatGives 0x0BC00000000 run15 0 true 0x000000F3 0x0000BC07 = true := by
  decide +kernel

/-! ### Illegal beats -/

/-- V77 to V81: BADCMD. -/
theorem test_bad_commands :
    beatGives 0x10000000003 State.reset 0 true 0x00000003 0x00000015 = true
      ∧ beatGives 0x1000000000F State.reset 0 true 0x00000003 0x00000015 = true
      ∧ beatGives 0x10080000001 State.reset 0 true 0x00000003 0x00000015 = true
      ∧ beatGives 0x10000000010 State.reset 0 true 0x00000003 0x00000015 = true
      ∧ beatGives 0x10000000011 run0 0 true 0x00000003 0x00000015 = true := by decide +kernel

/-- V82 to V91: ACCESS. -/
theorem test_access_faults :
    beatGives 0x10100000007 State.reset 0 true 0x00000003 0x00000116 = true
      ∧ beatGives 0x00600000000 State.reset 0 true 0x00000003 0x00000606 = true
      ∧ beatGives 0x00C00000000 State.reset 0 true 0x00000003 0x00000C06 = true
      ∧ beatGives 0x1FC00000000 State.reset 0 true 0x00000003 0x0000FC16 = true
      ∧ beatGives 0x0C000000000 State.reset 0 true 0x00000003 0x0000C006 = true
      ∧ beatGives 0x00000000000 State.reset 0 true 0x00000003 0x00000006 = true
      ∧ beatGives 0x01000000000 halfKeyed 0 true 0x00000003 0x00001006 = true
      ∧ beatGives 0x10400000000 State.reset 0 true 0x00000003 0x00000416 = true
      ∧ beatGives 0x14012345678 done 0 true 0x00000103 0x00004016 = true ∧ withdrawn 0x14012345678 done = true
      ∧ beatGives 0x04100000000 { run2 with round := 3#5 } 0 true 0x00000033 0x00004106 = true := by decide +kernel

/-- V104 to V106: refused in ERROR, the first cause stays. -/
theorem test_illegal_refused :
    beatGives 0x10000000003 inError 0 true 0x00000003 0x00000011 = true
      ∧ beatGives 0x00C00000000 inError 0 true 0x00000003 0x00000011 = true
      ∧ beatGives 0x00500000000 inError 0 true 0x00000003 0x00000011 = true := by decide +kernel

/-! ### The micro-operations -/

/-- The example of 41 R133. -/
theorem test_load :
    nextIs (exec .load keyed) (fun t => t.c = some 0xF0CCAAF#28 ∧ t.d = some 0x556678F#28 ∧ t.phase = .run
      ∧ t.keyvalid = 0#2 ∧ t.key0 = none) = true := by decide +kernel

/-- The first and the third step of the example of 41 R134 (amounts 1 and 2). -/
theorem test_round :
    nextIs (exec .round run0) (fun t => t.c = some 0xE19955F#28 ∧ t.d = some 0xAACCF1E#28
        ∧ t.subkey[0] = some 0x1B02EFFC7072#48 ∧ t.round = 1#5 ∧ t.phase = .run) = true
      ∧ nextIs (exec .round run2) (fun t => t.c = some 0x0CCAAFF#28 ∧ t.d = some 0x56678F5#28
        ∧ t.subkey[2] = some 0x55FC8A42CF99#48 ∧ t.subkey[1] = some 0x79AED9DBC9E5#48 ∧ t.round = 3#5) = true := by
  decide +kernel

/-- The sixteenth step (41 R134, V20): DONE with ROUND = 16. -/
theorem test_round_last :
    nextIs (exec .round run15) (fun t => t.subkey[15] = some 0#48 ∧ t.statusWord = 0x00000102#32 ∧ t.doneO = true
      ∧ t.busyO = false) = true := by decide +kernel

/-! ### The primitives -/

/-- The answer of a primitive performed on its own. -/
def answers (i : Instr) (o : UnitOut) : Bool := nextIs (exec i State.reset) fun t => t.unitOut = o

/-- V10a to V10g. -/
theorem test_get_bit :
    answers (.getBit a5c3 0) (.bit true) = true ∧ answers (.getBit a5c3 1) (.bit false) = true
      ∧ answers (.getBit a5c3 7) (.bit true) = true ∧ answers (.getBit a5c3 8) (.bit true) = true
      ∧ answers (.getBit a5c3 15) (.bit true) = true ∧ answers (.getBit a5c3 16) .bounds = true
      ∧ answers (.getBit ⟨0, 0#0⟩ 0) .bounds = true ∧ answers (.getBit f0ccaaf 28) .bounds = true := by decide +kernel

/-- V11a to V11d. -/
theorem test_set_bit :
    answers (.setBit a5c3 1 true) (.buf ⟨16, 0xE5C3#16⟩) = true
      ∧ answers (.setBit a5c3 15 false) (.buf ⟨16, 0xA5C2#16⟩) = true
      ∧ answers (.setBit a5c3 0 true) (.buf a5c3) = true ∧ answers (.setBit a5c3 16 false) .bounds = true := by
  decide +kernel

/-- V12a to V12g. -/
theorem test_select_range :
    answers (.selectRange a5c3 4 8) (.buf ⟨8, 0x5C#8⟩) = true ∧ answers (.selectRange a5c3 12 4) (.buf ⟨4, 0x3#4⟩) = true
      ∧ answers (.selectRange a5c3 0 16) (.buf a5c3) = true ∧ answers (.selectRange a5c3 16 0) (.buf ⟨0, 0#0⟩) = true
      ∧ answers (.selectRange a5c3 12 5) .bounds = true
      ∧ answers (.selectRange ⟨56, 0xF0CCAAF556678F#56⟩ 28 28) (.buf ⟨28, 0x556678F#28⟩) = true := by decide +kernel

/-- V13a to V13i. -/
theorem test_select_by_table :
    answers (.selectByTable ⟨8, 0xB2#8⟩ [8, 7, 6, 5, 4, 3, 2, 1]) (.buf ⟨8, 0x4D#8⟩) = true
      ∧ answers (.selectByTable ⟨8, 0xA5#8⟩ [1, 1, 8, 8]) (.buf ⟨4, 0xF#4⟩) = true
      ∧ answers (.selectByTable ⟨8, 0x40#8⟩ [2, 2, 2]) (.buf ⟨3, 0b111#3⟩) = true
      ∧ answers (.selectByTable ⟨8, 0xA5#8⟩ [1, 2, 3, 4, 5, 6, 7, 8, 1, 2, 3, 4]) (.buf ⟨12, 0xA5A#12⟩) = true
      ∧ answers (.selectByTable ⟨8, 0xA5#8⟩ []) (.buf ⟨0, 0#0⟩) = true
      ∧ answers (.selectByTable ⟨8, 0xA5#8⟩ [9]) .bounds = true
      ∧ answers (.selectByTable ⟨8, 0xA5#8⟩ [0]) .bounds = true
      ∧ answers (.selectByTable ⟨8, 0xA5#8⟩ [1, 9, 2]) .bounds = true := by decide +kernel

/-- V13j, V13k: the engine's PC1 and PC2 applications. -/
theorem test_select_by_engine_tables :
    answers (.selectByTable ⟨64, 0x133457799BBCDFF1#64⟩ defaultPc1) (.buf ⟨56, 0xF0CCAAF556678F#56⟩) = true
      ∧ answers (.selectByTable ⟨56, 0xE19955FAACCF1E#56⟩ defaultPc2) (.buf ⟨48, 0x1B02EFFC7072#48⟩) = true := by
  decide +kernel

/-- V14a to V14f, V14k. -/
theorem test_rotate_left_half :
    answers (.rotateLeft f0ccaaf 28 0) (.buf f0ccaaf) = true
      ∧ answers (.rotateLeft f0ccaaf 28 1) (.buf ⟨28, 0xE19955F#28⟩) = true
      ∧ answers (.rotateLeft f0ccaaf 28 2) (.buf ⟨28, 0xC332ABF#28⟩) = true
      ∧ answers (.rotateLeft f0ccaaf 28 27) (.buf ⟨28, 0xF866557#28⟩) = true
      ∧ answers (.rotateLeft f0ccaaf 28 28) .bounds = true ∧ answers (.rotateLeft f0ccaaf 29 1) .bounds = true
      ∧ answers (.rotateLeft ⟨28, 0x8000000#28⟩ 28 1) (.buf ⟨28, 0x0000001#28⟩) = true := by decide +kernel

/-- V14g to V14j. -/
theorem test_rotate_left_bytes :
    answers (.rotateLeft a5c3 16 1) (.buf ⟨16, 0x4B87#16⟩) = true
      ∧ answers (.rotateLeft a5c3 16 2) (.buf ⟨16, 0x970E#16⟩) = true
      ∧ answers (.rotateLeft a5c3 16 15) (.buf ⟨16, 0xD2E1#16⟩) = true
      ∧ answers (.rotateLeft a5c3 8 1) (.buf ⟨8, 0x4B#8⟩) = true := by decide +kernel

/-- V15a to V15e. -/
theorem test_concatenate :
    answers (.concatenate f0ccaaf 28 ⟨28, 0x556678F#28⟩ 28) (.buf ⟨56, 0xF0CCAAF556678F#56⟩) = true
      ∧ answers (.concatenate ⟨4, 0xA#4⟩ 4 ⟨4, 0x5#4⟩ 4) (.buf ⟨8, 0xA5#8⟩) = true
      ∧ answers (.concatenate ⟨8, 0xA5#8⟩ 8 ⟨0, 0#0⟩ 0) (.buf ⟨8, 0xA5#8⟩) = true
      ∧ answers (.concatenate ⟨8, 0xA5#8⟩ 4 ⟨8, 0xC3#8⟩ 4) (.buf ⟨8, 0xAC#8⟩) = true
      ∧ answers (.concatenate ⟨4, 0xA#4⟩ 5 ⟨4, 0x5#4⟩ 4) .bounds = true := by decide +kernel

/-- Byte images: V12b (30), V13d (E0), V15a. -/
theorem test_byte_image :
    byteImage (0x3#4 : Buf 4) = [0x30#8] ∧ byteImage (0b111#3 : Buf 3) = [0xE0#8]
      ∧ byteImage (0xF0CCAAF556678F#56 : Buf 56)
        = [0xF0#8, 0xCC#8, 0xAA#8, 0xF5#8, 0x56#8, 0x67#8, 0x8F#8] := by decide +kernel

/-! ### The clocked form -/

/-- V61: a CLEAR in RUN, the step of its cycle does not occur; P4 cycle 6: nor after a faulting beat; a NOP does not delay
the sequencer (V52, 42 R163). -/
theorem test_clock_cycle :
    nextIs (clockCycle ⟨true, true, true, 0x00#8, 2#32⟩ run2) (fun t => t.statusWord = 0#32) = true
      ∧ nextIs (clockCycle ⟨true, true, false, 0x40#8, 0#32⟩ run2) (fun t => t.statusWord = 0x00000023#32) = true
      ∧ nextIs (clockCycle ⟨true, true, true, 0x00#8, 0#32⟩ run2) (fun t => t.statusWord = 0x00000031#32) = true
      ∧ nextIs (clockCycle ⟨true, true, false, 0x04#8, 0#32⟩ run2)
          (fun t => t.rdata = 0x00000021#32 ∧ t.round = 3#5) = true
      ∧ nextIs (clockCycle ⟨false, true, true, 0x10#8, 5#32⟩ run2)
          (fun t => State.reset.SameRegisters t ∧ t.err = false) = true := by decide +kernel

/-! ### States that meet the hypotheses of the obligations, clause by clause -/

/-- A state with these events waiting. -/
def withInputs (s : State) (es : List Event) : State := { s with inputs := es }

/-- The beats START, CLEAR and NOP, and a read at an address. -/
def startEvent : Event := .beat ⟨true, 0x00#8, 0x1#32⟩
def clearEvent : Event := .beat ⟨true, 0x00#8, 0x2#32⟩
def nopEvent : Event := .beat ⟨true, 0x00#8, 0x0#32⟩
def readAt (a : Addr) : Event := .beat ⟨false, a, 0#32⟩

/-- IDLE with the all-zero key loaded (V20). -/
def zeroKeyed : State := { State.reset with key0 := some 0#32, key1 := some 0#32, keyvalid := 0b11#2 }

/-- DecodeEncodeRoundTrip: each format, and key words at both ends. -/
theorem test_meets_round_trip :
    Instr.rdSk15Lo.hasEncoding = true ∧ (Instr.wrKey0 0xFFFFFFFF#32).hasEncoding = true
      ∧ (Instr.wrKey1 0#32).hasEncoding = true ∧ Instr.round.hasEncoding = true ∧ Instr.load.hasEncoding = false := by
  decide

/-- DecodedBeatIsItsRow: a read with data that is ignored, and a write. -/
theorem test_meets_decoded_beat :
    decodeBeat ⟨false, 0xBC#8, 0xFFFFFFFF#32⟩ = .ok .rdSk15Lo
      ∧ decodeBeat ⟨true, 0x14#8, 0xFFFFFFFF#32⟩ = .ok (.wrKey1 0xFFFFFFFF#32) := by decide

/-- IllegalBeatsAreRejected, IllegalBeatTraps: a beat for each clause, at the ends of its range. -/
theorem test_meets_illegal_beats :
    decodeBeat ⟨true, 0x01#8, 7#32⟩ = .error .misaligned ∧ decodeBeat ⟨false, 0xFF#8, 0#32⟩ = .error .misaligned
      ∧ decodeBeat ⟨false, 0x0C#8, 0#32⟩ = .error .unmapped ∧ decodeBeat ⟨true, 0x18#8, 0#32⟩ = .error .unmapped
      ∧ decodeBeat ⟨true, 0x1C#8, 0#32⟩ = .error .unmapped ∧ decodeBeat ⟨false, 0x28#8, 0#32⟩ = .error .unmapped
      ∧ decodeBeat ⟨false, 0x3C#8, 0#32⟩ = .error .unmapped ∧ decodeBeat ⟨false, 0xC0#8, 0#32⟩ = .error .unmapped
      ∧ decodeBeat ⟨true, 0xFC#8, 0#32⟩ = .error .unmapped
      ∧ decodeBeat ⟨false, 0x00#8, 0#32⟩ = .error .writeOnly ∧ decodeBeat ⟨false, 0x14#8, 0#32⟩ = .error .writeOnly
      ∧ decodeBeat ⟨true, 0x04#8, 0#32⟩ = .error .readOnly ∧ decodeBeat ⟨true, 0xBC#8, 0#32⟩ = .error .readOnly
      ∧ decodeBeat ⟨true, 0x00#8, 3#32⟩ = .error .badCommand
      ∧ decodeBeat ⟨true, 0x00#8, 0xFFFFFFFF#32⟩ = .error .badCommand
      ∧ decodeBeat ⟨true, 0x00#8, 2#32⟩ = .ok .wrCmdClear ∧ decodeBeat ⟨false, 0x40#8, 0#32⟩ = .ok .rdSk0Hi := by decide

/-- StepRunsDecodedInstruction: a beat; the sequencer's turn, listed and by an empty list, at ROUND = 0 and 15. -/
theorem test_meets_step_runs :
    (withInputs done [readAt 0x40#8]).inputs = readAt 0x40#8 :: [] ∧ decodeBeat ⟨false, 0x40#8, 0#32⟩ = .ok .rdSk0Hi
      ∧ (withInputs run15 [.sequencer, nopEvent]).inputs = .sequencer :: [nopEvent] ∧ run15.phase = .run
      ∧ run15.round.toNat = 15 ∧ run0.inputs = [] ∧ run0.phase = .run ∧ run0.round.toNat = 0 := by decide

/-- IllegalBeatTraps: both clauses, in IDLE and in RUN. -/
theorem test_meets_illegal_beat_traps :
    (withInputs State.reset [readAt 0x41#8]).inputs = readAt 0x41#8 :: [] ∧ State.reset.phase ≠ .error
      ∧ (0x41#8).extractLsb' 0 2 ≠ 0#2
      ∧ (withInputs run0 [.beat ⟨true, 0x00#8, 0x11#32⟩]).inputs = .beat ⟨true, 0x00#8, 0x11#32⟩ :: []
      ∧ run0.phase ≠ .error := by decide

/-- SequencerIdleOutsideRun: IDLE, DONE and ERROR. -/
theorem test_meets_sequencer_idle :
    State.reset.nextEvent.1 = .sequencer ∧ State.reset.phase ≠ .run
      ∧ done.nextEvent.1 = .sequencer ∧ done.phase ≠ .run
      ∧ (withInputs inError [.sequencer]).nextEvent.1 = .sequencer ∧ inError.phase ≠ .run := by decide

/-- ResetEventGivesResetState: in RUN and in ERROR. -/
theorem test_meets_reset_event :
    (withInputs run2 [.reset]).nextEvent.1 = .reset ∧ (withInputs inError [.reset, nopEvent]).nextEvent.1 = .reset := by
  decide

/-- StartFollowsItsTests: a state for each branch. -/
theorem test_meets_start :
    inError.phase = .error ∧ run0.phase = .run
      ∧ ({ keyed with cfg := badShifts } : State).phase = .idle ∧ tablesOk badShifts = false
      ∧ done.phase = .done ∧ tablesOk done.cfg = true ∧ done.keyvalid ≠ 0b11#2
      ∧ keyed.phase = .idle ∧ tablesOk keyed.cfg = true ∧ keyed.keyvalid = 0b11#2 := by decide

/-- LoadSplitsThePermutedKey: from IDLE, and from DONE with a key waiting. -/
theorem test_meets_load :
    keyed.phase = .idle ∧ tablesOk keyed.cfg = true ∧ keyed.keyvalid = 0b11#2
      ∧ keyed.key0 = some 0x13345779#32 ∧ keyed.key1 = some 0x9BBCDFF1#32
      ∧ ({ done with keyvalid := 0b11#2 } : State).phase = .done ∧ tablesOk done.cfg = true := by decide

/-- UnselectedMicroOpsChangeNothing: LOAD in RUN and without a key; ROUND in IDLE and in RUN with ROUND = 16. -/
theorem test_meets_unselected :
    ¬ ((run0.phase = .idle ∨ run0.phase = .done) ∧ tablesOk run0.cfg = true ∧ run0.keyvalid = 0b11#2)
      ∧ ¬ ((halfKeyed.phase = .idle ∨ halfKeyed.phase = .done) ∧ tablesOk halfKeyed.cfg = true
        ∧ halfKeyed.keyvalid = 0b11#2)
      ∧ ¬ (State.reset.phase = .run ∧ State.reset.round.toNat < 16)
      ∧ ¬ (({ run15 with round := 16#5 } : State).phase = .run
        ∧ ({ run15 with round := 16#5 } : State).round.toNat < 16) := by decide

/-- RoundComputesOneSubkey: ROUND = 0 and 15. -/
theorem test_meets_round :
    run0.phase = .run ∧ run0.round.toNat = 0 ∧ tablesOk run0.cfg = true
      ∧ run15.phase = .run ∧ run15.round.toNat = 15 ∧ tablesOk run15.cfg = true := by decide

/-- WriteKey0SetsItsHalf, WriteKey1SetsItsHalf, DebugReadsShowTheHalves, SubkeyHighReads, SubkeyLowReads: every PHASE. -/
theorem test_meets_phases :
    State.reset.phase = .idle ∧ run2.phase = .run ∧ done.phase = .done ∧ inError.phase = .error
      ∧ (Instr.rdSk0Hi, 0) ∈ skHiReads ∧ (Instr.rdSk15Hi, 15) ∈ skHiReads
      ∧ (Instr.rdSk0Lo, 0) ∈ skLoReads ∧ (Instr.rdSk15Lo, 15) ∈ skLoReads := by decide

/-- StatusReadFields, its second clause: a step in RUN that stays in RUN, and the one that reaches DONE. -/
theorem test_meets_round_rises :
    (run2.phase = .run ∧ run2.round.toNat < 16 ∧ ∃ t, step run2 = .next t ∧ t.phase = .run)
      ∧ (run15.phase = .run ∧ run15.round.toNat < 16 ∧ ∃ t, step run15 = .next t ∧ t.phase = .done) :=
  ⟨⟨by decide, by decide, exists_of_nextIs (by decide +kernel)⟩,
    ⟨by decide, by decide, exists_of_nextIs (by decide +kernel)⟩⟩

/-- SubkeyHighReads, its second clause: a read in DONE. -/
theorem test_meets_done_stays :
    done.phase = .done ∧ ∃ t, step (withInputs done [readAt 0x40#8]) = .next t ∧ t.phase = .done :=
  ⟨by decide, exists_of_nextIs (by decide +kernel)⟩

/-- ClearRestoresResetState, its second clause: a CLEAR presented in RUN. -/
theorem test_meets_clear_cycle : (⟨true, true, true, 0x00#8, 2#32⟩ : PortIn).beat = ⟨true, 0x00#8, 0x2#32⟩ := by decide

/-- ErrinfoReadFields, its last clause, and InvKeptByEveryStep: DONE with the test key meets the invariant. -/
theorem test_meets_inv_done : done.Inv ∧ done.phase ≠ .error := by
  refine ⟨?_, by decide⟩
  constructor <;> decide +kernel

/-- InvKeptByEveryStep: RUN and ERROR meet the invariant, and step. -/
theorem test_meets_inv_kept :
    run2.Inv ∧ inError.Inv ∧ (∃ t, step run2 = .next t ∧ t.phase = .run)
      ∧ ∃ t, step (withInputs inError [clearEvent]) = .next t ∧ t.phase = .idle := by
  refine ⟨?_, ?_, exists_of_nextIs (by decide +kernel), exists_of_nextIs (by decide +kernel)⟩
  · constructor <;> decide +kernel
  · constructor <;> decide +kernel

/-- ServedReadsHaveNoSideEffect: a served read in DONE. -/
theorem test_meets_served_read :
    (withInputs done [readAt 0xBC#8]).inputs = readAt 0xBC#8 :: [] ∧ (⟨false, 0xBC#8, 0#32⟩ : Beat).we = false
      ∧ ∃ t, step (withInputs done [readAt 0xBC#8]) = .next t ∧ t.err = false :=
  ⟨by decide, by decide, exists_of_nextIs (by decide +kernel)⟩

/-- TrapEntryRecordsAndWithdraws: IDLE, RUN and DONE. -/
theorem test_meets_trap_entry : State.reset.phase ≠ .error ∧ run2.phase ≠ .error ∧ done.phase ≠ .error := by decide

/-- FaultingBeatOnlyEntersTrap, NoDataWithAFailure: a beat that faults, and one that does not. -/
theorem test_meets_faulting_beat :
    done.phase ≠ .error
      ∧ (∃ t, step (withInputs done [readAt 0xC0#8]) = .next t ∧ t.err = true)
      ∧ (∃ t, step (withInputs done [readAt 0x04#8]) = .next t ∧ t.err = false)
      ∧ ∃ t, step (withInputs done [nopEvent]) = .next t ∧ t.err = false :=
  ⟨by decide, exists_of_nextIs (by decide +kernel), exists_of_nextIs (by decide +kernel),
    exists_of_nextIs (by decide +kernel)⟩

/-- ErrorRefusesAllButFour: an instruction of each kind, and an illegal beat. -/
theorem test_meets_error_refuses :
    inError.phase = .error ∧ Instr.rdStatus ∈ allowedInError ∧ Instr.wrCmdClear ∈ allowedInError
      ∧ (encodeBeat .wrCmdStart).isSome = true ∧ Instr.wrCmdStart ∉ allowedInError
      ∧ (encodeBeat .rdSk15Lo).isSome = true ∧ Instr.rdSk15Lo ∉ allowedInError
      ∧ (withInputs inError [readAt 0x05#8]).inputs = readAt 0x05#8 :: []
      ∧ decodeBeat ⟨false, 0x05#8, 0#32⟩ = .error .misaligned := by decide

/-- ErrorIsSticky: a step that stays, one by CLEAR, one by reset. -/
theorem test_meets_error_sticky :
    inError.phase = .error ∧ (∃ t, step inError = .next t ∧ t.phase = .error)
      ∧ (∃ t, step (withInputs inError [clearEvent]) = .next t ∧ t.phase = .idle)
      ∧ ∃ t, step (withInputs inError [.reset]) = .next t ∧ t.phase = .idle :=
  ⟨by decide, exists_of_nextIs (by decide +kernel), exists_of_nextIs (by decide +kernel),
    exists_of_nextIs (by decide +kernel)⟩

/-- PhaseMovesOnlyAsListed: one move of each kind. -/
theorem test_meets_phase_moves :
    (∃ t, step (withInputs keyed [startEvent]) = .next t ∧ t.phase ≠ keyed.phase)
      ∧ (∃ t, step run15 = .next t ∧ t.phase ≠ run15.phase)
      ∧ (∃ t, step (withInputs done [readAt 0x0C#8]) = .next t ∧ t.phase ≠ done.phase)
      ∧ (∃ t, step (withInputs run2 [clearEvent]) = .next t ∧ t.phase ≠ run2.phase)
      ∧ ∃ t, step (withInputs done [.reset]) = .next t ∧ t.phase ≠ done.phase :=
  ⟨exists_of_nextIs (by decide +kernel), exists_of_nextIs (by decide +kernel), exists_of_nextIs (by decide +kernel),
    exists_of_nextIs (by decide +kernel), exists_of_nextIs (by decide +kernel)⟩

/-- LevelOutputsFollowPhase, EveryStepAnswers, TablesNeverWritten: IDLE, and a running call with good tables that steps. -/
theorem test_meets_every_step :
    State.reset.phase = .idle ∧ run2.phase = .run ∧ tablesOk run2.cfg = true
      ∧ (∃ t, step run2 = .next t ∧ t.round = 3#5) ∧ ∃ t, exec .round run2 = .next t ∧ t.round = 3#5 :=
  ⟨by decide, by decide, by decide, exists_of_nextIs (by decide +kernel), exists_of_nextIs (by decide +kernel)⟩

/-- HarmlessBeatsInRun: a NOP and a read in RUN. -/
theorem test_meets_harmless_beats :
    run2.phase = .run ∧ (∃ t, step (withInputs run2 [nopEvent]) = .next t ∧ t.err = false)
      ∧ (∃ t, step (withInputs run2 [readAt 0x24#8]) = .next t ∧ t.err = false)
      ∧ (⟨true, 0x00#8, 0x0#32⟩ : Beat) ≠ ⟨true, 0x00#8, 0x2#32⟩ :=
  ⟨by decide, exists_of_nextIs (by decide +kernel), exists_of_nextIs (by decide +kernel), by decide⟩

/-- KeyIsReadOnlyByLoad: a key write and a round. -/
theorem test_meets_key_is_read_only_by_load :
    (withInputs keyed [.beat ⟨true, 0x10#8, 5#32⟩]).nextEvent.1 ≠ .beat ⟨true, 0x00#8, 0x1#32⟩
      ∧ (∃ t, step (withInputs keyed [.beat ⟨true, 0x10#8, 5#32⟩]) = .next t ∧ t.err = false)
      ∧ run2.nextEvent.1 ≠ .beat ⟨true, 0x00#8, 0x1#32⟩ ∧ ∃ t, step run2 = .next t ∧ t.round = 3#5 :=
  ⟨by decide, exists_of_nextIs (by decide +kernel), by decide, exists_of_nextIs (by decide +kernel)⟩

/-- RemainingRoundsReachDone: ROUND = 0 and 15, no event waiting. -/
theorem test_meets_remaining_rounds :
    run0.phase = .run ∧ run0.round.toNat < 16 ∧ tablesOk run0.cfg = true ∧ run0.inputs = []
      ∧ run15.phase = .run ∧ run15.round.toNat < 16 ∧ run15.inputs = []
      ∧ nextIs (Sys2Proof.core.run 0 run15) (fun t => t.phase = .run) = true := by decide

/-- The subkeys of the all-zero key are all zero (V20). -/
theorem test_derive_zero_key : deriveSubkeys defaultTables 0#64 = some (List.replicate 16 0#48) := by decide +kernel

/-- TrackingKeptWhileRunning: fifteen rounds of the all-zero key done (V20); the next step reaches DONE. -/
theorem test_meets_tracking :
    run15.phase = .run ∧ run15.round.toNat < 16 ∧ run15.Tracks 0#64
      ∧ ∃ t, step run15 = .next t ∧ (t.phase = .run ∨ t.phase = .done) :=
  ⟨by decide, by decide,
    ⟨List.replicate 16 0#48, 0#28, 0#28, test_derive_zero_key, rfl, rfl, by decide +kernel, by decide +kernel⟩,
    exists_of_nextIs (by decide +kernel)⟩

/-- CallYieldsDerivedSubkeys, SameKeySameSubkeys: START with the all-zero key in IDLE, and seventeen steps to DONE. -/
theorem test_meets_call :
    (withInputs zeroKeyed [startEvent]).inputs = startEvent :: [] ∧ zeroKeyed.phase = .idle
      ∧ tablesOk zeroKeyed.cfg = true ∧ zeroKeyed.keyvalid = 0b11#2
      ∧ zeroKeyed.key0 = some 0#32 ∧ zeroKeyed.key1 = some 0#32
      ∧ (∀ m, m < 17 → 1 ≤ m →
          nextIs (Sys2Proof.core.run m (withInputs zeroKeyed [startEvent])) (fun u => u.phase = .run) = true)
      ∧ ∃ t, Sys2Proof.core.run 17 (withInputs zeroKeyed [startEvent]) = .next t ∧ t.phase = .done :=
  ⟨by decide, by decide, by decide, by decide, by decide, by decide, by decide +kernel,
    exists_of_nextIs (by decide +kernel)⟩

/-- DeriveFromHostProgram: from reset, and from DONE. -/
theorem test_meets_derive :
    State.reset.phase = .idle ∧ tablesOk State.reset.cfg = true
      ∧ (withInputs State.reset (programEvents [.ldkey 0x133457799BBCDFF1#64, .start])).inputs
        = programEvents [.ldkey 0x133457799BBCDFF1#64, .start]
      ∧ programEvents [.ldkey 0x133457799BBCDFF1#64, .start]
        = [.beat ⟨true, 0x10#8, 0x13345779#32⟩, .beat ⟨true, 0x14#8, 0x9BBCDFF1#32⟩, startEvent]
      ∧ done.phase = .done ∧ tablesOk done.cfg = true := by decide +kernel

/-- ReadSubkeyReassembles: the first and the last subkey. -/
theorem test_meets_read_subkey :
    done.phase = .done ∧ done.subkey[(0 : Fin 16)] = some 0x1B02EFFC7072#48
      ∧ done.subkey[(15 : Fin 16)] = some 0xCB3D8B0E17F5#48 := by decide +kernel

/-- HalvesReturnAfterSixteenRounds, SubkeyClosedForm: the default tables and tables that repeat an entry; two keys that
share C (V20, V27) and two that share D (V20, V26), and their first and last subkeys. -/
theorem test_meets_closed_form :
    tablesOk defaultTables = true ∧ tablesOk { defaultTables with pc1 := List.replicate 56 64 } = true
      ∧ splitKey defaultTables 0#64 = some (0#28, 0#28)
      ∧ splitKey defaultTables 0x0000000000000002#64 = some (0#28, 0x8000000#28)
      ∧ splitKey defaultTables 0x8000000000000000#64 = some (0x0100000#28, 0#28)
      ∧ ((deriveSubkeys defaultTables 0x0000000000000002#64).bind fun l => l[0]?) = some 0x000000000100#48
      ∧ ((deriveSubkeys defaultTables 0x8000000000000000#64).bind fun l => l[15]?) = some 0x000040000000#48 := by
  decide +kernel

/-- DerivedOnlyUnderGoodTables (41 R130, 93 X20): the default tables; and malformed ones on which no primitive faults (a
SHIFTS sum of 29, an entry 3, seventeen entries, a PC1 of 57 entries), which give no subkey. -/
theorem test_derive_malformed :
    tablesOk defaultTables = true ∧ tablesOk badShifts = false
      ∧ deriveSubkeys badShifts 0#64 = none
      ∧ deriveSubkeys { defaultTables with shifts := defaultTables.shifts.set 0 3 } 0#64 = none
      ∧ deriveSubkeys { defaultTables with shifts := defaultTables.shifts ++ [1] } 0#64 = none
      ∧ deriveSubkeys { defaultTables with pc1 := defaultTables.pc1 ++ [1] } 0#64 = none
      ∧ splitKey { defaultTables with pc1 := defaultTables.pc1 ++ [1] } 0#64 = none := by decide

/-- ParityBitsDropped: the test key with every parity position inverted (V24). -/
theorem test_meets_parity :
    (∀ i, i < 64 → i % 8 ≠ 7 →
      bitAt (0x133457799BBCDFF1#64 : Buf 64) i = bitAt (0x123556789ABDDEF0#64 : Buf 64) i)
      ∧ (0x133457799BBCDFF1#64 : Buf 64) ≠ 0x123556789ABDDEF0#64 := by decide +kernel

/-- The primitives: the last operand that is in range and the first that is not, for each clause. -/
theorem test_meets_primitives :
    15 < a5c3.len ∧ a5c3.len ≤ 16
      ∧ 12 + 4 ≤ a5c3.len ∧ a5c3.len < 12 + 5 ∧ 16 + 0 ≤ a5c3.len
      ∧ (∀ e ∈ [1, 16, 16], 1 ≤ e ∧ e ≤ a5c3.len) ∧ (∃ e ∈ [1, 17], e < 1 ∨ a5c3.len < e)
      ∧ (∃ e ∈ [0], e < 1 ∨ a5c3.len < e)
      ∧ (28 ≤ f0ccaaf.len ∧ 27 < 28) ∧ (f0ccaaf.len < 29 ∨ 29 ≤ 1) ∧ (f0ccaaf.len < 28 ∨ 28 ≤ 28)
      ∧ (16 ≤ a5c3.len ∧ 28 ≤ f0ccaaf.len) ∧ (a5c3.len < 17 ∨ f0ccaaf.len < 28) ∧ (a5c3.len < 16 ∨ f0ccaaf.len < 29) := by
  decide

/-- IllFormedPrimitivesAnswerBounds: an ill-formed and a well-formed primitive. -/
theorem test_meets_ill_formed :
    (Instr.getBit a5c3 16).hasEncoding = false ∧ Instr.getBit a5c3 16 ≠ .load ∧ (Instr.getBit a5c3 16).wf = false
      ∧ (Instr.concatenate a5c3 16 f0ccaaf 28).hasEncoding = false
      ∧ (Instr.concatenate a5c3 16 f0ccaaf 28).wf = true := by decide

/-- IdentityTableTruncates (V5), RotationsCompose (V14l), ByteImagePadsWithZeros, PackedWordBits: ends of the ranges. -/
theorem test_meets_laws :
    (12 ≤ 16 ∧ 16 ≤ 16 ∧ 27 < 28 ∧ 1 < 28 ∧ (27 + 1) % 28 = 0)
      ∧ ((selectByTable a5c3.bits ((List.range 12).map (· + 1))).bind (ofLength 12)) = some 0xA5C#12
      ∧ (byteImage f0ccaaf.bits).length = 4 ∧ (byteImage f0ccaaf.bits)[3]? = some 0xF0#8
      ∧ pack32 f0ccaaf.bits 0 = 0xF0CCAAF0#32 ∧ pack32 (0x1B02EFFC7072#48 : Buf 48) 32 = 0x70720000#32 := by
  decide +kernel

/-- ClockCycleIsAnInterleaving: a cycle in reset, one without a beat, a beat with and without the sequencer's step. -/
theorem test_meets_clock_cycle :
    (∃ t, clockCycle ⟨false, false, false, 0#8, 0#32⟩ run2 = .next t ∧ t.phase = .idle)
      ∧ (∃ t, clockCycle ⟨true, false, false, 0#8, 0#32⟩ run2 = .next t ∧ t.round = 3#5)
      ∧ (∃ t, clockCycle ⟨true, true, false, 0x20#8, 0#32⟩ run2 = .next t ∧ t.round = 3#5)
      ∧ ∃ t, clockCycle ⟨true, true, true, 0x00#8, 1#32⟩ keyed = .next t ∧ t.round = 0#5 :=
  ⟨exists_of_nextIs (by decide +kernel), exists_of_nextIs (by decide +kernel), exists_of_nextIs (by decide +kernel),
    exists_of_nextIs (by decide +kernel)⟩

end Sys2Proof.Tests
end

/-! PROOFS. The statements of 10_state.md: the invariant of the reachable states, the key that only START reads, the moves
of PHASE, the tables, the halves after a call, and the state after reset. -/

namespace Sys2Proof.Machine

/-! ### What a step does -/

/-- A step that answers a next state is one of: a beat's effect, the step ROUND, an idle turn of the sequencer, reset. -/
theorem step_next_cases {s t : State} (h : step s = .next t) :
    (∃ b, s.nextEvent.1 = .beat b ∧ BeatEffect s.taken b (.next t))
      ∨ (s.nextEvent.1 = .sequencer ∧ s.taken.roundReady = true ∧ s.taken.runRound = some t)
      ∨ (s.nextEvent.1 = .sequencer ∧ s.taken.roundReady = false ∧ t = s.taken)
      ∨ (s.nextEvent.1 = .reset ∧ t = s.taken.clear) := by
  rcases step_cases s with ⟨b, hb, he⟩ | ⟨hq, he⟩ | ⟨hr, he⟩ <;> rw [h] at he
  · exact .inl ⟨b, hb, he⟩
  · split at he
    · rename_i hready
      exact .inr (.inl ⟨hq, hready, microOutcome_eq_next he.symm⟩)
    · rename_i hidle
      exact .inr (.inr (.inl ⟨hq, Bool.eq_false_iff.mpr hidle, Host.Outcome.next.inj he⟩))
  · exact .inr (.inr (.inr ⟨hr, Host.Outcome.next.inj he⟩))

/-- A step whose event is a beat runs the instruction the beat decodes to. -/
theorem step_of_decoded {s : State} {b : Beat} {i : Instr} (h : s.nextEvent.1 = .beat b) (hd : decodeBeat b = .ok i) :
    step s = exec i s.taken := by
  simp [step, State.select, State.taken, h, selectEvent, hd]

/-- A step whose event is an illegal beat is the offence of that beat (42 R174). -/
theorem step_of_illegal {s : State} {b : Beat} {x : BeatError} (h : s.nextEvent.1 = .beat b)
    (hd : decodeBeat b = .error x) : step s = .next (s.taken.offend (beatErrorCause x) b.addr b.we) := by
  simp [step, State.select, State.taken, h, selectEvent, hd]

/-- Only START's own beat decodes to START. -/
theorem decodeBeat_start {b : Beat} (h : decodeBeat b = .ok .wrCmdStart) : b = startBeat := by
  obtain ⟨e, he, -, hw, hd⟩ := decodeBeat_agrees h
  obtain rfl : startBeat = e := Option.some.inj he
  exact (hd hw.symm).symm

/-! ### The invariant of the reachable states -/

/-- The invariant speaks of the spec's registers and the tables only. -/
theorem State.Inv.of_sameRegisters {s t : State} (hi : s.Inv) (h : s.SameRegisters t) : t.Inv := by
  cases s
  cases t
  obtain ⟨rfl, rfl, rfl, rfl, rfl, rfl, rfl, rfl, rfl, rfl, rfl, rfl⟩ := h
  exact { hi with }

/-- ROUND is at most 16 in every PHASE (10_state.md R29). -/
theorem State.Inv.round_le {s : State} (hi : s.Inv) : s.round.toNat ≤ 16 := by
  cases hp : s.phase with
  | idle => simp [hi.idle_round hp]
  | run => exact Nat.le_of_lt (hi.run_round hp)
  | done => simp [hi.done_round hp]
  | error => exact hi.error_round hp

theorem State.Inv.cause_none {s : State} (hi : s.Inv) (h : s.phase ≠ .error) : s.cause = .none :=
  not_ne_iff.mp (mt hi.cause_iff.mp h)

theorem State.Inv.taken {s : State} (hi : s.Inv) : s.taken.Inv :=
  hi.of_sameRegisters ⟨rfl, rfl, rfl, rfl, rfl, rfl, rfl, rfl, rfl, rfl, rfl, rfl⟩

theorem State.Inv.respond {s : State} (hi : s.Inv) (v : Word) : (s.respond v).Inv :=
  hi.of_sameRegisters ⟨rfl, rfl, rfl, rfl, rfl, rfl, rfl, rfl, rfl, rfl, rfl, rfl⟩

theorem State.Inv.refuse {s : State} (hi : s.Inv) : s.refuse.Inv :=
  hi.of_sameRegisters ⟨rfl, rfl, rfl, rfl, rfl, rfl, rfl, rfl, rfl, rfl, rfl, rfl⟩

/-- Trap entry: a cause is recorded, ROUND stays, no data register holds a value (60 R210). -/
theorem State.Inv.trap {s : State} (hi : s.Inv) {cause : Cause} (hn : cause ≠ .none) (hb : cause ≠ .bounds)
    (addr : Addr) (we : Bool) : (s.trap cause addr we).Inv := by
  constructor <;> simp [State.holdsExactly, hi.round_le, hn, hb]

/-- CLEAR and reset, whatever the state before (10_state.md R38). -/
theorem State.inv_clear (s : State) : s.clear.Inv := by
  constructor <;> simp [State.holdsExactly]

/-- A key write outside ERROR sets one half of KEY and its bit of KEYVALID (42 R166). -/
theorem State.Inv.writeKey0 {s : State} (hi : s.Inv) (hp : s.phase ≠ .error) (k : Buf 32) :
    { s with key0 := some k, keyvalid := setKey0Valid s.keyvalid }.Inv :=
  { hi with
    key0_iff := (setKey0Valid_bits s.keyvalid).1
    key1_iff := (setKey0Valid_bits s.keyvalid).2.trans hi.key1_iff
    error_keyvalid := fun h => absurd h hp }

/-- The other half (42 R167). -/
theorem State.Inv.writeKey1 {s : State} (hi : s.Inv) (hp : s.phase ≠ .error) (k : Buf 32) :
    { s with key1 := some k, keyvalid := setKey1Valid s.keyvalid }.Inv :=
  { hi with
    key0_iff := (setKey1Valid_bits s.keyvalid).2.trans hi.key0_iff
    key1_iff := (setKey1Valid_bits s.keyvalid).1
    error_keyvalid := fun h => absurd h hp }

/-- What the invariant asks of a state in RUN or DONE: ROUND counts the subkeys held. -/
theorem State.inv_of_call {s : State}
    (hp : (s.phase = .run ∧ s.round.toNat < 16) ∨ (s.phase = .done ∧ s.round = 16#5))
    (hcause : s.cause = .none) (hrec : s.errAddr = 0#8 ∧ s.errWe = false)
    (hk0 : s.keyvalid.getLsbD 0 = s.key0.isSome) (hk1 : s.keyvalid.getLsbD 1 = s.key1.isSome)
    (hc : s.c.isSome = true) (hd : s.d.isSome = true) (hsk : s.holdsExactly fun i => decide (i < s.round.toNat))
    (ht : tablesOk s.cfg = true) : s.Inv := by
  simp only [State.holdsExactly, Fin.getElem_fin] at hsk
  constructor
  case key0_iff => exact hk0
  case key1_iff => exact hk1
  all_goals
    rcases hp with ⟨hp, hr⟩ | ⟨hp, hr⟩ <;> simp [State.holdsExactly, hp, hr, hcause, hrec, hc, hd, hsk, ht]

/-- LOAD starts a call with ROUND 0: KEY and every subkey are given up (41 R133). -/
theorem State.Inv.load {s t : State} (hi : s.Inv) (hr : s.loadReady = true) (hl : s.load = some t) : t.Inv := by
  obtain ⟨hp, ht, -⟩ := (loadReady_iff s).mp hr
  obtain ⟨c, d, -, rfl⟩ := State.load_eq_some hl
  have hne : s.phase ≠ .error := by rcases hp with h | h <;> simp [h]
  exact State.inv_of_call (.inl ⟨rfl, by simp⟩) (hi.cause_none hne) (hi.record_clear hne) (by simp) (by simp)
    rfl rfl (by simp [State.holdsExactly]) ht

/-- Once SUBKEY[r] is written after the first `r`, exactly the first `r + 1` hold values. -/
theorem holdsBelow_setIfInBounds {v : Vector (Option (Buf 48)) 16} {r : Nat} (sk : Buf 48)
    (h : ∀ i : Fin 16, v[i].isSome = decide (i.val < r)) (i : Fin 16) :
    (v.setIfInBounds r (some sk))[i].isSome = decide (i.val < r + 1) := by
  have hi := h i
  simp only [Fin.getElem_fin, Vector.getElem_setIfInBounds] at hi ⊢
  split
  · rename_i he
    simp [he]
  · rename_i he
    rw [hi, decide_eq_decide]
    omega

/-- ROUND in RUN: one more subkey is held, and PHASE is DONE exactly when that was the sixteenth (41 R134, R135). -/
theorem State.Inv.runRound {s t : State} (hi : s.Inv) (hr : s.roundReady = true) (ht : s.runRound = some t) :
    t.Inv := by
  obtain ⟨hp, hlt⟩ := (roundReady_iff s).mp hr
  obtain ⟨c, d, sk, -, rfl⟩ := State.runRound_eq_some ht
  have hne : s.phase ≠ .error := by simp [hp]
  have hround : (s.round + 1#5).toNat = s.round.toNat + 1 := by bv_omega
  refine State.inv_of_call ?_ (hi.cause_none hne) (hi.record_clear hne) hi.key0_iff hi.key1_iff rfl rfl ?_
    (hi.tables (.inl hp))
  · by_cases hlast : s.round.toNat + 1 = 16
    · exact .inr ⟨by simp [hlast], by bv_omega⟩
    · exact .inl ⟨by simp [hlast, hp], by simp only [hround]; omega⟩
  · intro i
    rw [hround]
    exact holdsBelow_setIfInBounds sk (hi.subkey_run hp) i

/-- Whatever a beat does keeps the invariant. -/
theorem BeatEffect.inv {s t : State} {b : Beat} (h : BeatEffect s b (.next t)) (hi : s.Inv) : t.Inv := by
  cases h with
  | refused h => exact hi.refuse
  | trapped cause h hn hb => exact hi.trap hn hb _ _
  | answered v hw => exact hi.respond v
  | wroteKey0 v h hw => exact (hi.writeKey0 h _).respond _
  | wroteKey1 v h hw => exact (hi.writeKey1 h _).respond _
  | started u hr hl hb => exact (hi.load hr hl).respond _
  | cleared hb => exact s.inv_clear.respond _

/-- Settles O32: each kind of step keeps the invariant of the reachable states. -/
theorem invKeptByEveryStep : Obligations.InvKeptByEveryStep := by
  intro s t hi h
  rcases step_next_cases h with ⟨b, -, he⟩ | ⟨-, hr, ht⟩ | ⟨-, -, rfl⟩ | ⟨-, rfl⟩
  · exact he.inv hi.taken
  · exact hi.taken.runRound hr ht
  · exact hi.taken
  · exact State.inv_clear _

/-- Settles O31: the state after reset is a cleared state. -/
theorem invAtReset : Obligations.InvAtReset :=
  State.reset.inv_clear

/-! ### Steps that do not read the key (10_state.md R21) -/

/-- `s` with other contents of the two halves of KEY. -/
def State.withKey (s : State) (k0 k1 : Option (Buf 32)) : State := { s with key0 := k0, key1 := k1 }

/-- If `o` is a next state, `o'` is the same one but for the contents of KEY. -/
def KeyBlind (o o' : Outcome) : Prop := ∀ t, o = .next t → ∃ k0 k1, o' = .next (t.withKey k0 k1)

theorem keyBlind_next (t : State) (k0 k1 : Option (Buf 32)) : KeyBlind (.next t) (.next (t.withKey k0 k1)) := by
  intro u h
  exact ⟨k0, k1, by rw [Host.Outcome.next.inj h]⟩

section
variable (s : State) (k0 k1 : Option (Buf 32))

@[simp] theorem State.withKey_phase : (s.withKey k0 k1).phase = s.phase := rfl
@[simp] theorem State.withKey_taken : (s.withKey k0 k1).taken = s.taken.withKey k0 k1 := rfl
@[simp] theorem State.withKey_roundReady : (s.withKey k0 k1).roundReady = s.roundReady := rfl

theorem refuse_keyBlind : KeyBlind (.next s.refuse) (.next (s.withKey k0 k1).refuse) :=
  keyBlind_next s.refuse k0 k1

theorem respond_keyBlind (v : Word) : KeyBlind (.next (s.respond v)) (.next ((s.withKey k0 k1).respond v)) :=
  keyBlind_next (s.respond v) k0 k1

theorem trap_keyBlind (cause : Cause) (addr : Addr) (we : Bool) :
    KeyBlind (.next (s.trap cause addr we)) (.next ((s.withKey k0 k1).trap cause addr we)) :=
  keyBlind_next (s.trap cause addr we) none none

theorem offend_keyBlind (cause : Cause) (addr : Addr) (we : Bool) :
    KeyBlind (.next (s.offend cause addr we)) (.next ((s.withKey k0 k1).offend cause addr we)) := by
  by_cases h : s.phase = .error
  · rw [State.offend_of_error _ _ _ h, State.offend_of_error (s := s.withKey k0 k1) _ _ _ h]
    exact refuse_keyBlind s k0 k1
  · rw [State.offend_of_ne_error _ _ _ h, State.offend_of_ne_error (s := s.withKey k0 k1) _ _ _ h]
    exact trap_keyBlind s k0 k1 cause addr we

/-- A read of C or D, whose word does not depend on KEY. -/
theorem readInCall_keyBlind (addr : Addr) (v : Word) :
    KeyBlind (.next (s.readInCall addr v)) (.next ((s.withKey k0 k1).readInCall addr v)) := by
  simp only [State.readInCall, State.withKey_phase]
  cases s.phase with
  | error => exact refuse_keyBlind s k0 k1
  | idle => exact trap_keyBlind s k0 k1 _ _ _
  | run => exact respond_keyBlind s k0 k1 v
  | done => exact respond_keyBlind s k0 k1 v

/-- A read of a subkey word, which does not depend on KEY. -/
theorem readWhenDone_keyBlind (addr : Addr) (v : Word) :
    KeyBlind (.next (s.readWhenDone addr v)) (.next ((s.withKey k0 k1).readWhenDone addr v)) := by
  simp only [State.readWhenDone, State.withKey_phase]
  cases s.phase with
  | error => exact refuse_keyBlind s k0 k1
  | idle => exact trap_keyBlind s k0 k1 _ _ _
  | run => exact trap_keyBlind s k0 k1 _ _ _
  | done => exact respond_keyBlind s k0 k1 v

/-- A beat guarded by PHASE, if its effect outside ERROR does not depend on KEY. -/
theorem unlessError_keyBlind {t t' : State} (h : KeyBlind (.next t) (.next t')) :
    KeyBlind (.next (s.unlessError t)) (.next ((s.withKey k0 k1).unlessError t')) := by
  by_cases hp : s.phase = .error
  · rw [State.unlessError_of_error _ hp, State.unlessError_of_error (s := s.withKey k0 k1) _ hp]
    exact refuse_keyBlind s k0 k1
  · rwa [State.unlessError_of_ne_error _ hp, State.unlessError_of_ne_error (s := s.withKey k0 k1) _ hp]

/-- A beat's instruction other than START does the same whatever KEY holds. -/
theorem exec_keyBlind {i : Instr} {b : Beat} (hb : encodeBeat i = some b) (hi : i ≠ .wrCmdStart) :
    KeyBlind (exec i s) (exec i (s.withKey k0 k1)) := by
  cases i with
  | wrCmdStart => exact absurd rfl hi
  | wrCmdClear => exact keyBlind_next (s.clear.respond 0#32) none none
  | wrCmdNop | rdStatus | rdErrinfo => exact respond_keyBlind s k0 k1 _
  | wrKey0 v => exact unlessError_keyBlind s k0 k1 (keyBlind_next _ (some (keyHalf v)) k1)
  | wrKey1 v => exact unlessError_keyBlind s k0 k1 (keyBlind_next _ k0 (some (keyHalf v)))
  | rdDbgC | rdDbgD => exact readInCall_keyBlind s k0 k1 _ _
  | round | load | getBit | setBit | selectRange | selectByTable | rotateLeft | concatenate => cases hb
  | _ => exact readWhenDone_keyBlind s k0 k1 _ _

/-- ROUND reads the halves and the tables, and writes no half of KEY (41 R134). -/
theorem runRound_keyBlind : KeyBlind (microOutcome s.runRound) (microOutcome (s.withKey k0 k1).runRound) := by
  intro t ht
  obtain ⟨c, d, sk, hr, rfl⟩ := State.runRound_eq_some (microOutcome_eq_next ht)
  have hr' : roundOf (s.withKey k0 k1).cfg (s.withKey k0 k1).round.toNat (s.withKey k0 k1).readC
      (s.withKey k0 k1).readD = some (c, d, sk) := hr
  exact ⟨k0, k1, by rw [State.runRound, hr']; rfl⟩

end

/-- A step other than START does the same whatever KEY holds. -/
theorem step_keyBlind {s : State} (k0 k1 : Option (Buf 32)) (h : s.nextEvent.1 ≠ .beat startBeat) :
    KeyBlind (step s) (step (s.withKey k0 k1)) := by
  cases he : s.nextEvent.1 with
  | beat b =>
    have he' : (s.withKey k0 k1).nextEvent.1 = .beat b := he
    cases hd : decodeBeat b with
    | ok i =>
      obtain ⟨e, hb, -⟩ := decodeBeat_agrees hd
      have hi : i ≠ .wrCmdStart := by
        rintro rfl
        exact h (decodeBeat_start hd ▸ he)
      rw [step_of_decoded he hd, step_of_decoded he' hd]
      exact exec_keyBlind s.taken k0 k1 hb hi
    | error x =>
      rw [step_of_illegal he hd, step_of_illegal he' hd]
      exact offend_keyBlind s.taken k0 k1 _ _ _
  | sequencer =>
    have he' : (s.withKey k0 k1).nextEvent.1 = .sequencer := he
    rw [step_sequencer he, step_sequencer he', State.withKey_taken, State.withKey_roundReady]
    split
    · exact runRound_keyBlind s.taken k0 k1
    · exact keyBlind_next s.taken k0 k1
  | reset =>
    have he' : (s.withKey k0 k1).nextEvent.1 = .reset := he
    rw [step_reset he, step_reset he']
    exact keyBlind_next s.taken.clear none none

/-- Settles O36: the step answered with other contents of KEY differs in KEY only, so putting the halves back gives the
same state. -/
theorem keyIsReadOnlyByLoad : Obligations.KeyIsReadOnlyByLoad := by
  intro s t k0 k1 hne h
  obtain ⟨k0', k1', h'⟩ := step_keyBlind k0 k1 hne t h
  exact ⟨t.withKey k0' k1', h', rfl⟩

/-! ### What moves PHASE (10_state.md R28) -/

/-- A beat that changes PHASE is an accepted START, an error, or CLEAR. -/
theorem BeatEffect.phase_moves {s t : State} {b : Beat} (h : BeatEffect s b (.next t)) (hp : t.phase ≠ s.phase) :
    (t.phase = .run ∧ s.loadReady = true ∧ b = startBeat) ∨ (t.phase = .error ∧ t.err = true)
      ∨ (t.phase = .idle ∧ b = clearBeat) := by
  cases h with
  | trapped cause h hn hb => exact .inr (.inl ⟨rfl, rfl⟩)
  | started u hr hl hb =>
    obtain ⟨c, d, -, rfl⟩ := State.load_eq_some hl
    exact .inl ⟨rfl, hr, hb⟩
  | cleared hb => exact .inr (.inr ⟨rfl, hb⟩)
  | refused | answered | wroteKey0 | wroteKey1 => exact absurd rfl hp

/-- ROUND changes PHASE only as the sixteenth round, to DONE (41 R135). -/
theorem State.runRound_phase_moves {s t : State} (h : s.runRound = some t) (hp : t.phase ≠ s.phase) :
    t.phase = .done ∧ s.round = 15#5 := by
  obtain ⟨c, d, sk, -, rfl⟩ := State.runRound_eq_some h
  by_cases hlast : s.round.toNat + 1 = 16
  · exact ⟨if_pos hlast, by bv_omega⟩
  · exact absurd (if_neg hlast) hp

/-- Settles O29: of the kinds of step, only those the table of phases lists move PHASE. -/
theorem phaseMovesOnlyAsListed : Obligations.PhaseMovesOnlyAsListed := by
  intro s t h hp
  rcases step_next_cases h with ⟨b, hb, he⟩ | ⟨hq, hr, ht⟩ | ⟨-, -, rfl⟩ | ⟨hq, rfl⟩
  · rcases he.phase_moves hp with ⟨hrun, hl, rfl⟩ | ⟨herr, he⟩ | ⟨hidle, rfl⟩
    · obtain ⟨hfrom, htab, hkv⟩ := (loadReady_iff s.taken).mp hl
      exact .inl ⟨hrun, hfrom, hb, htab, hkv⟩
    · exact .inr (.inr (.inl ⟨herr, he, b, hb⟩))
    · exact .inr (.inr (.inr ⟨hidle, .inr hb⟩))
  · obtain ⟨hrun, -⟩ := (roundReady_iff s.taken).mp hr
    obtain ⟨hdone, hlast⟩ := State.runRound_phase_moves ht hp
    exact .inr (.inl ⟨hdone, hrun, hlast, hq⟩)
  · exact absurd rfl hp
  · exact .inr (.inr (.inr ⟨rfl, .inl hq⟩))

/-- Settles O30: each level output is the test of one PHASE. -/
theorem levelOutputsFollowPhase : Obligations.LevelOutputsFollowPhase := by
  intro s
  simp only [State.busyO, State.doneO, State.errorO]
  cases s.phase <;> decide

/-! ### The tables (10_state.md R26) -/

theorem State.load_cfg {s t : State} (h : s.load = some t) : t.cfg = s.cfg := by
  obtain ⟨c, d, -, rfl⟩ := State.load_eq_some h
  rfl

theorem State.runRound_cfg {s t : State} (h : s.runRound = some t) : t.cfg = s.cfg := by
  obtain ⟨c, d, sk, -, rfl⟩ := State.runRound_eq_some h
  rfl

theorem State.unitAnswer_cfg {α : Type} (s : State) (out : α → UnitOut) (r : Option α) :
    (s.unitAnswer out r).cfg = s.cfg := by
  rw [State.unitAnswer_frame]

theorem BeatEffect.cfg {s t : State} {b : Beat} (h : BeatEffect s b (.next t)) : t.cfg = s.cfg := by
  cases h with
  | started u hr hl hb => exact (u.respond_cfg _).trans (State.load_cfg hl)
  | refused | trapped | answered | wroteKey0 | wroteKey1 | cleared => rfl

theorem execRound_cfg {s t : State} (h : execRound s = .next t) : t.cfg = s.cfg := by
  unfold execRound at h
  split at h
  · exact State.runRound_cfg (microOutcome_eq_next h)
  · rw [Host.Outcome.next.inj h]

theorem execLoad_cfg {s t : State} (h : execLoad s = .next t) : t.cfg = s.cfg := by
  unfold execLoad at h
  split at h
  · exact State.load_cfg (microOutcome_eq_next h)
  · rw [Host.Outcome.next.inj h]

/-- An instruction is a beat's, a micro-operation, or a primitive; none of them writes the tables. -/
theorem exec_cfg {i : Instr} {s t : State} (h : exec i s = .next t) : t.cfg = s.cfg := by
  cases hb : encodeBeat i with
  | some b => exact BeatEffect.cfg (h ▸ exec_beatEffect hb s)
  | none =>
    cases i with
    | round => exact execRound_cfg h
    | load => exact execLoad_cfg h
    | getBit | setBit | selectRange | selectByTable | rotateLeft | concatenate =>
      exact Host.Outcome.next.inj h ▸ State.unitAnswer_cfg s _ _
    | _ => cases hb

theorem step_cfg {s t : State} (h : step s = .next t) : t.cfg = s.cfg := by
  rcases step_next_cases h with ⟨b, -, he⟩ | ⟨-, -, ht⟩ | ⟨-, -, rfl⟩ | ⟨-, rfl⟩
  · exact he.cfg
  · exact State.runRound_cfg (s := s.taken) ht
  · rfl
  · rfl

/-- Settles O33: neither a step nor an instruction on its own writes the tables. -/
theorem tablesNeverWritten : Obligations.TablesNeverWritten :=
  ⟨fun _ _ => step_cfg, fun _ _ _ => exec_cfg⟩

/-! ### The halves after a call (10_state.md R41) -/

theorem rotHalf_zero (b : Buf 28) : rotHalf b 0 = b := by
  apply buf_ext
  intro i hi
  simp [hi, Nat.mod_eq_of_lt hi]

theorem rotHalf_turn (b : Buf 28) : rotHalf b 28 = b :=
  (rotHalf_mod b 28).symm.trans (rotHalf_zero b)

/-- The halves after `n` rounds are those before, rotated by the sum of the rounds' shifts. -/
theorem halvesAfter_eq_rotHalf {cfg : Config.Tables} (h : GoodTables cfg) (n r : Nat) (hr : r + n ≤ 16)
    (c d : Buf 28) : halvesAfter cfg n r c d
      = some (rotHalf c ((cfg.shifts.drop r).take n).sum, rotHalf d ((cfg.shifts.drop r).take n).sum) := by
  induction n generalizing r c d with
  | zero => simp [halvesAfter, rotHalf_zero]
  | succ n ih =>
    obtain ⟨a, ha, -⟩ := shifts_getElem h (show r < 16 by omega)
    simp only [halvesAfter, roundOf_of_good h c d ha, ih (r + 1) (by omega), rotHalf_rotHalf, shifts_drop ha,
      List.take_succ_cons, List.sum_cons]

/-- Settles O43: the sixteen shifts add up to 28, a whole turn of a half. -/
theorem halvesReturnAfterSixteenRounds : Obligations.HalvesReturnAfterSixteenRounds := by
  intro cfg c d ht
  have h := (tablesOk_iff cfg).mp ht
  have hsum : ((cfg.shifts.drop 0).take 16).sum = 28 := by
    rw [List.drop_zero, ← h.shifts_length, List.take_length, h.shifts_sum]
  rw [halvesAfter_eq_rotHalf h 16 0 (by decide), hsum, rotHalf_turn, rotHalf_turn]

/-! ### The state after reset (10_state.md R38) -/

theorem tablesOk_default : tablesOk defaultTables = true := by decide

/-- Settles O9: each register and view of the reset state by evaluation, the default tables by their own lemma. -/
theorem resetStateValues : Obligations.ResetStateValues :=
  ⟨rfl, rfl, rfl, rfl, rfl, rfl, rfl, by decide, rfl, rfl, rfl, rfl, rfl, rfl, rfl, rfl, tablesOk_default⟩

end Sys2Proof.Machine

/-! PROOFS. The statements of 20_memory.md: the instruction a step runs, the beats that change nothing of a call, packed
words, and the clock cycle as steps of the interleaving model. -/

namespace Sys2Proof.Machine

/-! ### The step and its instruction (20_memory.md R60, R62) -/

/-- The sequencer's turn is `exec .round`, which does nothing where the sequencer has no step (41 R131). -/
theorem step_eq_exec_round {s : State} (h : s.nextEvent.1 = .sequencer) : step s = exec .round s.taken :=
  step_sequencer h

/-- When no event waits it is the sequencer's turn. -/
theorem nextEvent_nil {s : State} (h : s.inputs = []) : s.nextEvent = (.sequencer, []) := by
  simp [State.nextEvent, h]

/-- Settles O5: a beat's step runs what the beat decodes to, the sequencer's turn is `exec .round`, and event intake is
its own definition. -/
theorem stepRunsDecodedInstruction : Obligations.StepRunsDecodedInstruction := by
  refine ⟨?_, ?_, fun _ _ => rfl⟩
  · intro s b rest i hin hd
    rw [step_of_decoded (congrArg Prod.fst (nextEvent_cons hin)) hd, taken_cons hin]
  · intro s rest hin _ _
    have hnext : s.nextEvent = (.sequencer, rest) := by
      rcases hin with hin | ⟨hin, rfl⟩
      · exact nextEvent_cons hin
      · exact nextEvent_nil hin
    rw [step_eq_exec_round (congrArg Prod.fst hnext), State.taken, hnext]

/-! ### Beats that are served (20_memory.md R58, R63) -/

/-- A read beat that is served changes nothing but the response. -/
theorem BeatEffect.eq_respond_of_read {s t : State} {b : Beat} (h : BeatEffect s b (.next t)) (hr : b.we = false)
    (he : t.err = false) : t = s.respond t.rdata := by
  cases h with
  | answered v hw => rfl
  | refused | trapped => cases he
  | wroteKey0 v h hw | wroteKey1 v h hw => cases hr.symm.trans hw
  | started u hl hr' hb | cleared hb => subst hb; cases hr

/-- Settles O23: of the effects of a beat only the bare response is a served read. -/
theorem servedReadsHaveNoSideEffect : Obligations.ServedReadsHaveNoSideEffect := by
  intro s t b rest hin hr h herr
  exact (h ▸ step_beat_cons hin).eq_respond_of_read hr herr

/-- In RUN a beat that is served and no CLEAR is a bare response or a key write. -/
theorem BeatEffect.keeps_call {s t : State} {b : Beat} (h : BeatEffect s b (.next t)) (hp : s.phase = .run)
    (he : t.err = false) (hb : b ≠ clearBeat) :
    t.c = s.c ∧ t.d = s.d ∧ t.subkey = s.subkey ∧ t.round = s.round ∧ t.phase = .run := by
  cases h with
  | answered | wroteKey0 | wroteKey1 => exact ⟨rfl, rfl, rfl, rfl, hp⟩
  | refused | trapped => cases he
  | started u hr hl hb' =>
    obtain ⟨hidle, -⟩ := (loadReady_iff s).mp hr
    simp [hp] at hidle
  | cleared hb' => exact absurd hb' hb

/-- Settles O35: in RUN no START is accepted, and a CLEAR and the faults are excluded. -/
theorem harmlessBeatsInRun : Obligations.HarmlessBeatsInRun := by
  intro s t b rest hin hp h herr hne
  exact (h ▸ step_beat_cons hin).keeps_call hp herr hne

/-! ### Packed words (20_memory.md R51) -/

/-- Settles O57: word bit `31 - j` is buffer index `j` of the packed word. -/
theorem packedWordBits : Obligations.PackedWordBits := by
  intro n b off j hj
  rw [← bitAt_word _ hj, bitAt_pack32]
  by_cases h : off + j < n <;> simp [hj, h]

/-! ### Beats do not depend on the events that wait -/

/-- `s` with other events to come. -/
def State.withInputs (s : State) (l : List Event) : State := { s with inputs := l }

/-- The outcome with `f` of its next state, a stop unchanged. -/
def mapNext (f : State → State) : Outcome → Outcome
  | .next t => .next (f t)
  | .fault r => .fault r
  | .refused r => .refused r

section
variable (s : State) (l : List Event)

@[simp] theorem State.withInputs_phase : (s.withInputs l).phase = s.phase := rfl

theorem State.offend_withInputs (cause : Cause) (addr : Addr) (we : Bool) :
    (s.withInputs l).offend cause addr we = (s.offend cause addr we).withInputs l := by
  simp only [State.offend, State.withInputs_phase]
  cases s.phase <;> rfl

theorem State.readInCall_withInputs (addr : Addr) (v : Word) :
    (s.withInputs l).readInCall addr v = (s.readInCall addr v).withInputs l := by
  simp only [State.readInCall, State.withInputs_phase]
  cases s.phase <;> rfl

theorem State.readWhenDone_withInputs (addr : Addr) (v : Word) :
    (s.withInputs l).readWhenDone addr v = (s.readWhenDone addr v).withInputs l := by
  simp only [State.readWhenDone, State.withInputs_phase]
  cases s.phase <;> rfl

theorem State.unlessError_withInputs {t t' : State} (h : t' = t.withInputs l) :
    (s.withInputs l).unlessError t' = (s.unlessError t).withInputs l := by
  subst h
  simp only [State.unlessError, State.withInputs_phase]
  cases s.phase <;> rfl

theorem State.load_withInputs : (s.withInputs l).load = s.load.map (·.withInputs l) := by
  have hkey : splitKey (s.withInputs l).cfg (s.withInputs l).readKey = splitKey s.cfg s.readKey := rfl
  simp only [State.load, hkey]
  cases splitKey s.cfg s.readKey <;> rfl

theorem State.startCall_withInputs : (s.withInputs l).startCall = mapNext (·.withInputs l) s.startCall := by
  have hcfg : (s.withInputs l).cfg = s.cfg := rfl
  have hkv : (s.withInputs l).keyvalid = s.keyvalid := rfl
  simp only [State.startCall, hcfg, hkv, State.load_withInputs]
  split
  · rfl
  · split
    · rfl
    · cases s.load <;> rfl

theorem execWrCmdStart_withInputs : execWrCmdStart (s.withInputs l) = mapNext (·.withInputs l) (execWrCmdStart s) := by
  simp only [execWrCmdStart, State.withInputs_phase]
  cases s.phase with
  | error | run => rfl
  | idle | done => exact s.startCall_withInputs l

/-- A beat's instruction does the same whatever events wait. -/
theorem exec_withInputs {i : Instr} {b : Beat} (hb : encodeBeat i = some b) :
    exec i (s.withInputs l) = mapNext (·.withInputs l) (exec i s) := by
  cases i with
  | wrCmdStart => exact execWrCmdStart_withInputs s l
  | wrCmdNop | wrCmdClear | rdStatus | rdErrinfo => rfl
  | wrKey0 | wrKey1 => exact congrArg Host.Outcome.next (s.unlessError_withInputs l rfl)
  | rdDbgC | rdDbgD => exact congrArg Host.Outcome.next (s.readInCall_withInputs l _ _)
  | round | load | getBit | setBit | selectRange | selectByTable | rotateLeft | concatenate => cases hb
  | _ => exact congrArg Host.Outcome.next (s.readWhenDone_withInputs l _ _)

/-- A beat's step does the same whatever events wait after it. -/
theorem step_beat_withInputs (b : Beat) :
    step (s.withInputs (.beat b :: l)) = mapNext (·.withInputs l) (runEvent (.beat b) s) := by
  have h : (s.withInputs (.beat b :: l)).nextEvent.1 = .beat b := rfl
  have h' : (State.nextEvent { s with inputs := .beat b :: s.inputs }).1 = .beat b := rfl
  rw [runEvent]
  cases hd : decodeBeat b with
  | ok i =>
    obtain ⟨e, he, -⟩ := decodeBeat_agrees hd
    rw [step_of_decoded h hd, step_of_decoded h' hd]
    exact exec_withInputs (s.takeEvent s.inputs) l he
  | error x =>
    rw [step_of_illegal h hd, step_of_illegal h' hd]
    exact congrArg Host.Outcome.next ((s.takeEvent s.inputs).offend_withInputs l _ _ _)

end

/-! ### The clock cycle (20_memory.md R62, 42 R177) -/

/-- Only CLEAR's own beat is one. -/
theorem isClear_iff (b : Beat) : isClear b = true ↔ b = clearBeat := by
  constructor
  · intro h
    unfold isClear at h
    split at h
    · rename_i i hd
      obtain rfl := of_decide_eq_true h
      obtain ⟨e, he, -, hw, hx⟩ := decodeBeat_agrees hd
      obtain rfl : clearBeat = e := Option.some.inj he
      exact (hx hw.symm).symm
    · cases h
  · rintro rfl
    decide

/-- A run of one step is the step. -/
theorem run_one {s t : State} (h : step s = .next t) : Sys2Proof.core.run 1 s = .next t :=
  run_succ 0 h

/-- A beat leaves the events that wait after it. -/
theorem BeatEffect.inputs {s t : State} {b : Beat} (h : BeatEffect s b (.next t)) : t.inputs = s.inputs := by
  cases h with
  | started u hr hl hb =>
    obtain ⟨c, d, -, rfl⟩ := State.load_eq_some hl
    rfl
  | refused | trapped | answered | wroteKey0 | wroteKey1 | cleared => rfl

/-- A beat and then the sequencer's turn, as a run of the two events and as two events taken one after the other. -/
theorem run_beat_sequencer {s b u : State} {x : Beat} (hb : runEvent (.beat x) s = .next b)
    (hu : runEvent .sequencer b = .next u) :
    Sys2Proof.core.run 2 { s with inputs := .beat x :: .sequencer :: s.inputs } = .next u := by
  have heffect : BeatEffect (s.takeEvent s.inputs) x (runEvent (.beat x) s) :=
    step_beat_cons (s := { s with inputs := .beat x :: s.inputs }) rfl
  have hin : b.inputs = s.inputs := (hb ▸ heffect).inputs
  have hfirst : step { s with inputs := .beat x :: .sequencer :: s.inputs }
      = .next (b.withInputs (.sequencer :: s.inputs)) := by
    have := step_beat_withInputs s (.sequencer :: s.inputs) x
    rwa [hb] at this
  rw [run_succ 1 hfirst]
  apply run_one
  rw [← hin]
  exact hu

/-- The sequencer's step of a beat's cycle is its turn, with the beat's response put back (log 19). -/
theorem sequencerAfterBeat_eq_next {b t : State} (h : sequencerAfterBeat b = .next t) :
    ∃ u, runEvent .sequencer b = .next u ∧ t = { u with rdata := b.rdata, err := b.err } := by
  unfold sequencerAfterBeat at h
  split at h
  · rename_i u hu
    exact ⟨u, hu, (Host.Outcome.next.inj h).symm⟩
  · cases h
  · cases h

/-- A cycle with a beat that answers is the beat, and after it the sequencer's step exactly where 20_memory.md R62 gives
one. -/
theorem clockCycle_beat {p : PortIn} {s t : State} (hrst : p.rstN ≠ false) (hreq : p.req ≠ false)
    (h : clockCycle p s = .next t) : ∃ b, runEvent (.beat p.beat) s = .next b
      ∧ if s.phase = .run ∧ b.err = false ∧ p.beat ≠ clearBeat then sequencerAfterBeat b = .next t
        else t = b := by
  rw [clockCycle, if_neg hrst, if_neg hreq] at h
  split at h
  · rename_i b hb
    refine ⟨b, hb, ?_⟩
    simp only [ne_eq, ← isClear_iff, Bool.not_eq_true]
    split at h
    · rename_i hseq
      rwa [if_pos hseq]
    · rename_i hbeat
      rw [if_neg hbeat, Host.Outcome.next.inj h]
  · cases h
  · cases h

/-- Settles O58: a cycle is one event's step, or a beat's step and then the sequencer's, which together are the run of
both events since the beat's step does not depend on the events after it. -/
theorem clockCycleIsAnInterleaving : Obligations.ClockCycleIsAnInterleaving := by
  intro p s t h
  split
  · rename_i hrst
    rw [clockCycle, if_pos hrst] at h
    exact run_one h
  · rename_i hrst
    split
    · rename_i hreq
      rw [clockCycle, if_neg hrst, if_pos hreq] at h
      exact run_one h
    · rename_i hreq
      obtain ⟨b, hb, ht⟩ := clockCycle_beat hrst hreq h
      refine ⟨b, run_one hb, ?_⟩
      split at ht
      · rename_i hseq
        obtain ⟨u, hu, rfl⟩ := sequencerAfterBeat_eq_next ht
        exact ⟨rfl, rfl, (if_pos hseq).mpr ⟨u, run_beat_sequencer hb hu, rfl⟩⟩
      · rename_i hbeat
        subst ht
        exact ⟨rfl, rfl, (if_neg hbeat).mpr rfl⟩

end Sys2Proof.Machine

/-! PROOFS. The statements of 30_encoding.md: the words of the spec, the round trip of the encoder, the beats that decode
and those that do not, and the two words of a subkey. -/

namespace Sys2Proof

/-! ### A beat as six bytes (log 12) -/

/-- A number's remaining digits in base 256 and its lowest one, joined. -/
theorem ofNat_div_append_byte (n w : Nat) :
    BitVec.ofNat n (w / 256) ++ BitVec.ofNat 8 w = BitVec.ofNat (n + 8) w := by
  apply BitVec.eq_of_toNat_eq
  have hlow : w % 2 ^ 8 < 2 ^ 8 := Nat.mod_lt _ (by decide)
  calc (BitVec.ofNat n (w / 256) ++ BitVec.ofNat 8 w).toNat
      = (w / 256 % 2 ^ n) <<< 8 + w % 2 ^ 8 := by
        simp only [BitVec.toNat_append, BitVec.toNat_ofNat, Nat.shiftLeft_add_eq_or_of_lt hlow]
    _ = w % 2 ^ 8 + 2 ^ 8 * (w / 2 ^ 8 % 2 ^ n) := by
        rw [Nat.shiftLeft_eq, Nat.add_comm, Nat.mul_comm]
        rfl
    _ = (BitVec.ofNat (n + 8) w).toNat := by
        rw [← Nat.mod_mul, ← Nat.pow_add, Nat.add_comm 8 n, BitVec.toNat_ofNat]

/-- A beat's fields are read back from its 41 bits (30_encoding.md R81). -/
@[simp] theorem Beat.ofBits_toBits (b : Beat) : Beat.ofBits b.toBits = b := by
  have hwe : b.toBits.getLsbD 40 = b.we := by
    refine (BitVec.getLsbD_append (n := 1 + 8) (m := 32)).trans (BitVec.getLsbD_append.trans ?_)
    cases b.we <;> rfl
  have haddr : b.toBits.extractLsb' 32 8 = b.addr :=
    (BitVec.extractLsb'_append_eq_of_le (Nat.le_refl 32)).trans BitVec.extractLsb'_append_eq_right
  have hdata : b.toBits.extractLsb' 0 32 = b.wdata := BitVec.extractLsb'_append_eq_right
  rw [Beat.ofBits, hwe, haddr, hdata]

/-- The lowest six digits of a number, as bytes, are a beat by the lowest 48 bits of the number. -/
theorem beatOfBytes_digits (w : Nat) :
    beatOfBytes (BitVec.ofNat 8 w) (BitVec.ofNat 8 (w / 256)) (BitVec.ofNat 8 (w / 256 / 256))
        (BitVec.ofNat 8 (w / 256 / 256 / 256)) (BitVec.ofNat 8 (w / 256 / 256 / 256 / 256))
        (BitVec.ofNat 8 (w / 256 / 256 / 256 / 256 / 256))
      = if (BitVec.ofNat 48 w).extractLsb' 41 7 = 0#7 then some (Beat.ofBits ((BitVec.ofNat 48 w).extractLsb' 0 41))
        else none := by
  simp only [beatOfBytes, ofNat_div_append_byte]

/-- The bytes of a beat decode as the beat does. -/
theorem decode_bytesOf_toBits {b : Beat} {i : Instr} (h : decodeBeat b = .ok i) :
    decode (bytesOf 6 b.toBits.toNat) = .ok i := by
  have hpad : (b.toBits.setWidth 48).extractLsb' 41 7 = 0#7 := by
    apply BitVec.eq_of_getLsbD_eq
    intro i hi
    simp
  have hbits : (b.toBits.setWidth 48).extractLsb' 0 41 = b.toBits :=
    (BitVec.extractLsb'_setWidth_of_le (by decide)).trans BitVec.extractLsb'_eq_self
  simp only [bytesOf, decode, beatOfBytes_digits]
  simp only [BitVec.ofNat_toNat, hpad, hbits, Beat.ofBits_toBits, if_true, h]

/-! ### The beat of a mapped word -/

theorem decodeBeat_readBeat (r : PortReg) : decodeBeat (readBeat r) = decodeRead r := by
  simp [decodeBeat, readBeat, addr_aligned, mapWord_of_addr]

theorem decodeBeat_writeBeat (r : PortReg) (v : Word) : decodeBeat (writeBeat r v) = decodeWrite r v := by
  simp [decodeBeat, writeBeat, addr_aligned, mapWord_of_addr]

/-- The beat of an instruction decodes to it. -/
theorem decodeBeat_of_encodeBeat {i : Instr} {b : Beat} (h : encodeBeat i = some b) : decodeBeat b = .ok i := by
  cases i with
  | wrCmdNop | wrCmdStart | wrCmdClear | wrKey0 | wrKey1 => cases h; exact decodeBeat_writeBeat _ _
  | round | load | getBit | setBit | selectRange | selectByTable | rotateLeft | concatenate => cases h
  | _ => cases h; exact decodeBeat_readBeat _

/-- The instructions with bits of their own are those of the beats, and ROUND. -/
theorem hasEncoding_iff (i : Instr) : i.hasEncoding = true ↔ (∃ b, encodeBeat i = some b) ∨ i = .round := by
  simp [Instr.hasEncoding, Option.isSome_iff_exists]

/-- The bytes of an instruction that has a beat are those of the beat. -/
theorem encode_of_encodeBeat {i : Instr} {b : Beat} (h : encodeBeat i = some b) :
    encode i = bytesOf 6 b.toBits.toNat := by
  simp [encode, h]

/-- Settles O2: an instruction with a beat decodes from the beat's six bytes, ROUND from its position byte. -/
theorem decodeEncodeRoundTrip : Obligations.DecodeEncodeRoundTrip := by
  intro i hi
  rcases (hasEncoding_iff i).mp hi with ⟨b, hb⟩ | rfl
  · rw [encode_of_encodeBeat hb]
    exact decode_bytesOf_toBits (decodeBeat_of_encodeBeat hb)
  · decide

/-- Settles O3: a decoded beat agrees with the row of its instruction in every bit that is decoded. -/
theorem decodedBeatIsItsRow : Obligations.DecodedBeatIsItsRow := by
  intro b i h
  obtain ⟨e, he, haddr, hwe, hdata⟩ := decodeBeat_agrees h
  exact ⟨e, he, hwe, haddr, fun hw => congrArg Beat.wdata (hdata hw)⟩

/-! ### Illegal beats (30_encoding.md R82, R89) -/

/-- Mapped words lie at different addresses. -/
theorem PortReg.addr_inj {r q : PortReg} : r.addr = q.addr ↔ r = q := by
  constructor
  · intro h
    exact Option.some.inj (by rw [← mapWord_of_addr r, h, mapWord_of_addr])
  · exact congrArg PortReg.addr

/-- The aligned addresses that the map does not list (20_memory.md R55). -/
theorem mapWord_eq_none_iff : ∀ addr : Addr, addr.extractLsb' 0 2 = 0#2 →
    (mapWord addr = none ↔ addr = 0x0C#8 ∨ addr = 0x18#8 ∨ addr = 0x1C#8 ∨ (0x28 ≤ addr.toNat ∧ addr.toNat ≤ 0x3C)
      ∨ 0xC0 ≤ addr.toNat) := by decide

theorem PortReg.addr_eq_cmd_iff (r : PortReg) : r.addr = 0x00#8 ↔ r = .cmd := PortReg.addr_inj (q := .cmd)
theorem PortReg.addr_eq_key0_iff (r : PortReg) : r.addr = 0x10#8 ↔ r = .key0 := PortReg.addr_inj (q := .key0)
theorem PortReg.addr_eq_key1_iff (r : PortReg) : r.addr = 0x14#8 ↔ r = .key1 := PortReg.addr_inj (q := .key1)

/-- The command words are 0, 1 and 2, as whole words (30_encoding.md R84). -/
theorem decodeCommand_eq (v : Word) : decodeCommand v =
    if v = 0#32 then .ok .wrCmdNop else if v = 1#32 then .ok .wrCmdStart
    else if v = 2#32 then .ok .wrCmdClear else .error .badCommand := by
  split_ifs with h0 h1 h2
  · subst h0; rfl
  · subst h1; rfl
  · subst h2; rfl
  · refine if_pos ?_
    by_contra hcmd
    rw [not_or, not_ne_iff, Nat.not_le] at hcmd
    obtain ⟨hreserved, hopcode⟩ := hcmd
    have hv := command_split v
    rw [hreserved] at hv
    by_cases e0 : v.extractLsb' 0 4 = 0#4
    · exact h0 (by rw [hv, e0]; rfl)
    by_cases e1 : v.extractLsb' 0 4 = 1#4
    · exact h1 (by rw [hv, e1]; rfl)
    · exact h2 (by rw [hv, opcode_two _ hopcode e0 e1]; rfl)

/-- A write-only word rejects its read beat, every other word serves it. -/
theorem decodeRead_outcome (r : PortReg) :
    if r = .cmd ∨ r = .key0 ∨ r = .key1 then decodeRead r = .error .writeOnly else ∃ i, decodeRead r = .ok i := by
  cases r <;> simp [decodeRead]

/-- A read-only word rejects its write beat, CMD every word but a command word. -/
theorem decodeWrite_outcome (r : PortReg) (v : Word) :
    if ¬ (r = .cmd ∨ r = .key0 ∨ r = .key1) then decodeWrite r v = .error .readOnly
    else if r = .cmd ∧ v ≠ 0#32 ∧ v ≠ 1#32 ∧ v ≠ 2#32 then decodeWrite r v = .error .badCommand
    else ∃ i, decodeWrite r v = .ok i := by
  cases r with
  | cmd =>
    simp only [decodeWrite, decodeCommand_eq]
    split_ifs <;> simp_all
  | _ => simp [decodeWrite]

theorem decodeBeat_of_unmapped {b : Beat} (ha : b.addr.extractLsb' 0 2 = 0#2) (hm : mapWord b.addr = none) :
    decodeBeat b = .error .unmapped := by
  simp [decodeBeat, ha, hm]

theorem decodeBeat_of_mapped {b : Beat} {r : PortReg} (ha : b.addr.extractLsb' 0 2 = 0#2)
    (hm : mapWord b.addr = some r) : decodeBeat b = if b.we then decodeWrite r b.wdata else decodeRead r := by
  simp [decodeBeat, ha, hm]

/-- Settles O4: an aligned address that is mapped is a word's, and then the word, the direction and the data decide. -/
theorem illegalBeatsAreRejected : Obligations.IllegalBeatsAreRejected := by
  intro b
  split
  · rename_i hmisaligned
    exact if_pos hmisaligned
  · rename_i haligned
    have ha := not_ne_iff.mp haligned
    split
    · rename_i hunmapped
      exact decodeBeat_of_unmapped ha ((mapWord_eq_none_iff b.addr ha).mpr hunmapped)
    · rename_i hmapped
      obtain ⟨r, hr⟩ := Option.ne_none_iff_exists'.mp (mt (mapWord_eq_none_iff b.addr ha).mp hmapped)
      rw [decodeBeat_of_mapped ha hr, ← mapWord_addr ha hr]
      simp only [PortReg.addr_eq_cmd_iff, PortReg.addr_eq_key0_iff, PortReg.addr_eq_key1_iff]
      cases b.we with
      | false => simpa using decodeRead_outcome r
      | true => simpa using decodeWrite_outcome r b.wdata

/-- Settles O1, by running the decoder on the words. -/
theorem writtenWordsDecode : Obligations.WrittenWordsDecode := by
  unfold Obligations.WrittenWordsDecode
  decide

end Sys2Proof

namespace Sys2Proof.Machine

/-! ### RDSK (30_encoding.md R93) -/

/-- Word bits [31:16], as a buffer, are the word's first sixteen bits. -/
theorem bitAt_upperHalf (w : Word) {j : Nat} (hj : j < 16) : bitAt (w.extractLsb' 16 16) j = bitAt w j := by
  have hindex : 32 - (16 + 16 - j) = j := by omega
  simp only [bitAt, BitVec.getMsbD_extractLsb', hindex]
  simp [hj]

/-- The two packed words of a subkey make it again. -/
theorem subkeyOfWords_pack32 (sk : Buf 48) : subkeyOfWords (pack32 sk 0) (pack32 sk 32) = sk := by
  apply buf_ext
  intro i hi
  rw [subkeyOfWords, bitAt_append]
  split
  · rename_i hhi
    simp [bitAt_pack32, hhi, hi]
  · rename_i hlo
    have hj : i - 32 < 16 := by omega
    have hj32 : i - 32 < 32 := by omega
    have hi32 : 32 + (i - 32) = i := by omega
    simp [bitAt_upperHalf _ hj, bitAt_pack32, hj32, hi32, hi]

theorem State.readWhenDone_of_done {s : State} (addr : Addr) (v : Word) (h : s.phase = .done) :
    s.readWhenDone addr v = s.respond v := by
  simp [State.readWhenDone, h]

/-- In DONE the high word of a subkey is served. -/
theorem exec_rdSkHi_of_done {s : State} (n : Fin 16) (h : s.phase = .done) :
    exec (rdSkHi n) s = .next (s.respond (s.skHiWord n)) := by
  rw [exec_rdSkHi, readSkHi, State.readWhenDone_of_done _ _ h]

/-- In DONE the low word of a subkey is served. -/
theorem exec_rdSkLo_of_done {s : State} (n : Fin 16) (h : s.phase = .done) :
    exec (rdSkLo n) s = .next (s.respond (s.skLoWord n)) := by
  rw [exec_rdSkLo, readSkLo, State.readWhenDone_of_done _ _ h]

/-- The words of a subkey register that holds a value. -/
theorem State.skWords_of_some {s : State} {n : Fin 16} {sk : Buf 48} (h : s.subkey[n] = some sk) :
    s.skHiWord n = pack32 sk 0 ∧ s.skLoWord n = pack32 sk 32 := by
  have hread : s.readSubkey n = sk := by rw [State.readSubkey, h, readReg_some]
  rw [State.skHiWord, State.skLoWord, hread]
  exact ⟨rfl, rfl⟩

/-- Settles O42: both reads are served in DONE, the first changes no subkey, and the two packed words make it again. -/
theorem readSubkeyReassembles : Obligations.ReadSubkeyReassembles := by
  intro s n sk hdone hsk
  obtain ⟨hhi, -⟩ := State.skWords_of_some hsk
  have hkept : (s.respond (s.skHiWord n)).subkey[n] = some sk := hsk
  obtain ⟨-, hlo⟩ := State.skWords_of_some hkept
  refine ⟨_, _, exec_rdSkHi_of_done n hdone, exec_rdSkLo_of_done n hdone, ?_⟩
  rw [State.respond_rdata, State.respond_rdata, hlo, hhi, subkeyOfWords_pack32]

end Sys2Proof.Machine

/-! PROOFS. The statements of 40_bit_buffer_primitives.md: each primitive's answer bit by bit or its fault, the laws of
identity tables and rotations, the byte image, and the parity bits that PC1 drops. -/

namespace Sys2Proof.Machine

/-! ### Where a primitive faults (40 R104 to R109)

The answers within bounds are the lemmas of Laws/Buffer; here are the faults. -/

section Faults

variable {n : Nat} (b : Buf n)

theorem getBit_of_le {pos : Nat} (h : n ≤ pos) : getBit b pos = none := by
  rw [getBit_eq, if_pos h]

theorem getBit_of_lt {pos : Nat} (h : pos < n) : getBit b pos = some (bitAt b pos) := by
  rw [getBit_eq, if_neg (Nat.not_le.mpr h)]

theorem setBit_of_le {pos : Nat} (v : Bool) (h : n ≤ pos) : setBit b pos v = none := by
  rw [setBit_eq, if_pos h]

theorem setBit_of_lt {pos : Nat} (v : Bool) (h : pos < n) :
    setBit b pos v = some (bufOf n fun i => if i = pos then v else bitAt b i) := by
  rw [setBit_eq, if_neg (Nat.not_le.mpr h)]

theorem selectRange_of_lt {start length : Nat} (h : n < start + length) : selectRange b start length = none :=
  if_pos h

/-- The table test of `select_by_table`, entry by entry. -/
theorem entriesWithin_iff {table : List Nat} :
    entriesWithin n table = true ↔ ∀ e ∈ table, 1 ≤ e ∧ e ≤ n := by
  simp [entriesWithin]

theorem selectByTable_of_bad {table : List Nat} (h : ∃ e ∈ table, e < 1 ∨ n < e) : selectByTable b table = none := by
  obtain ⟨e, he, hbad⟩ := h
  refine if_neg fun hgood => ?_
  obtain ⟨hlow, hhigh⟩ := entriesWithin_iff.mp hgood e he
  omega

theorem rotateLeft_of_bad {bitLength amount : Nat} (h : n < bitLength ∨ bitLength ≤ amount) :
    rotateLeft b bitLength amount = none := by
  unfold rotateLeft
  split
  · rfl
  · rename_i hlen
    exact if_pos (h.resolve_left hlen)

theorem concatenate_of_lt {m la lb : Nat} (a : Buf m) (h : m < la ∨ n < lb) : concatenate a la b lb = none :=
  if_pos h

end Faults

/-! ### The primitives as instructions -/

theorem exec_getBit (b : Buffer) (pos : Nat) (s : State) :
    exec (.getBit b pos) s = .next (s.unitAnswer .bit (getBit b.bits pos)) := rfl

theorem exec_setBit (b : Buffer) (pos : Nat) (v : Bool) (s : State) :
    exec (.setBit b pos v) s = .next (s.unitAnswer bufOut (setBit b.bits pos v)) := rfl

theorem exec_selectRange (b : Buffer) (start length : Nat) (s : State) :
    exec (.selectRange b start length) s = .next (s.unitAnswer bufOut (selectRange b.bits start length)) := rfl

theorem exec_selectByTable (b : Buffer) (table : List Nat) (s : State) :
    exec (.selectByTable b table) s = .next (s.unitAnswer bufOut (selectByTable b.bits table)) := rfl

theorem exec_rotateLeft (b : Buffer) (bitLength amount : Nat) (s : State) :
    exec (.rotateLeft b bitLength amount) s = .next (s.unitAnswer bufOut (rotateLeft b.bits bitLength amount)) := rfl

theorem exec_concatenate (a : Buffer) (la : Nat) (b : Buffer) (lb : Nat) (s : State) :
    exec (.concatenate a la b lb) s = .next (s.unitAnswer bufOut (concatenate a.bits la b.bits lb)) := rfl

/-- Settles O47: the bit read through the byte image is the buffer's bit. -/
theorem getBitReadsOneBit : Obligations.GetBitReadsOneBit := by
  intro b pos s
  rw [exec_getBit]
  constructor <;> intro h
  · rw [getBit_of_lt b.bits h, State.unitAnswer_some]
  · rw [getBit_of_le b.bits h, State.unitAnswer_none]

/-- Settles O48: the answer is the comprehension that replaces bit `pos` alone. -/
theorem setBitChangesOneBit : Obligations.SetBitChangesOneBit := by
  intro b pos v s
  rw [exec_setBit]
  constructor <;> intro h
  · rw [setBit_of_lt b.bits v h, State.unitAnswer_some]
    refine ⟨_, rfl, ?_, fun i hi hne => ?_⟩
    · simp [h]
    · simp [hi, hne]
  · rw [setBit_of_le b.bits v h, State.unitAnswer_none]

/-- Settles O49: the answer is the comprehension over the range's own bits. -/
theorem selectRangeCopiesBits : Obligations.SelectRangeCopiesBits := by
  intro b start length s
  rw [exec_selectRange]
  constructor <;> intro h
  · rw [selectRange_of_le b.bits h, State.unitAnswer_some]
    exact ⟨_, rfl, fun i hi => by simp [hi]⟩
  · rw [selectRange_of_lt b.bits h, State.unitAnswer_none]

/-- Settles O50: one bad entry fails the table test, and without one each bit is that of its entry. -/
theorem selectByTablePermutesBits : Obligations.SelectByTablePermutesBits := by
  intro b table s
  rw [exec_selectByTable]
  constructor <;> intro h
  · rw [selectByTable_of_within b.bits table (entriesWithin_iff.mpr h), State.unitAnswer_some]
    exact ⟨_, rfl, fun i hi => by simp [hi]⟩
  · rw [selectByTable_of_bad b.bits h, State.unitAnswer_none]

/-- Settles O51: the amount is tested, not reduced; within bounds the index is taken modulo the rotation's domain. -/
theorem rotateLeftRotatesTheDomain : Obligations.RotateLeftRotatesTheDomain := by
  intro b bitLength amount s
  rw [exec_rotateLeft]
  constructor <;> intro h
  · obtain ⟨hlen, hamount⟩ := h
    rw [rotateLeft_of_lt b.bits hlen hamount, State.unitAnswer_some]
    exact ⟨_, rfl, fun i hi => by simp [hi]⟩
  · rw [rotateLeft_of_bad b.bits h, State.unitAnswer_none]

/-- Settles O52: below the first stated length the answer's bits are those of `a`, from it on those of `b`. -/
theorem concatenateJoinsBits : Obligations.ConcatenateJoinsBits := by
  intro a la b lb s
  rw [exec_concatenate]
  constructor <;> intro h
  · obtain ⟨ha, hb⟩ := h
    rw [concatenate_of_le a.bits b.bits ha hb, State.unitAnswer_some]
    refine ⟨_, rfl, fun i hi => ?_, fun j hj => ?_⟩
    · simp [hi, Nat.lt_add_right lb hi]
    · simp [hj]
  · rw [concatenate_of_lt b.bits a.bits h, State.unitAnswer_none]

/-! ### Identity tables and rotations (40 R111, R112) -/

/-- The identity table's entries are positions of every buffer at least as long as the table. -/
theorem entriesWithin_identity {n m : Nat} (h : m ≤ n) : entriesWithin n ((List.range m).map (· + 1)) = true := by
  simp only [entriesWithin_iff, List.forall_mem_map, List.mem_range]
  omega

/-- Settles O54: entry `i` of the identity table selects bit `i`, as `select_range` from 0 does. -/
theorem identityTableTruncates : Obligations.IdentityTableTruncates := by
  intro n m b h
  refine ⟨_, selectRange_of_le b (show 0 + m ≤ n by omega), ?_, fun i hi => by simp [hi]⟩
  rw [selectByTable_of_within b _ (entriesWithin_identity h), Option.bind_some, ofLength_of_eq (by simp)]
  refine congrArg some (buf_ext fun i hi => ?_)
  simp [bitAt_cast, hi]

/-- Rotations of a whole buffer add up modulo its length. -/
theorem rotateLeft_bind_rotateLeft {n a1 a2 : Nat} (b : Buf n) (h1 : a1 < n) (h2 : a2 < n) :
    (rotateLeft b n a1).bind (fun r => rotateLeft r n a2) = rotateLeft b n ((a1 + a2) % n) := by
  have hpos : 0 < n := Nat.zero_lt_of_lt h1
  rw [rotateLeft_of_lt b (Nat.le_refl n) h1, Option.bind_some, rotateLeft_of_lt _ (Nat.le_refl n) h2,
    rotateLeft_of_lt b (Nat.le_refl n) (Nat.mod_lt _ hpos)]
  refine congrArg some (bufOf_congr fun i _ => ?_)
  have hindex : ((i + a2) % n + a1) % n = (i + (a1 + a2) % n) % n := by
    rw [Nat.mod_add_mod, Nat.add_mod_mod, Nat.add_right_comm, Nat.add_assoc]
  rw [bitAt_bufOf, decide_eq_true (Nat.mod_lt _ hpos), Bool.true_and, hindex]

/-- A rotation by 0 is the buffer itself. -/
theorem rotateLeft_zero {n : Nat} (b : Buf n) (h : 0 < n) : rotateLeft b n 0 = some b := by
  rw [rotateLeft_of_lt b (Nat.le_refl n) h]
  exact congrArg some (buf_ext fun i hi => by simp [hi, Nat.mod_eq_of_lt hi])

/-- Settles O55: amounts add up modulo the length, and a rotation by 0 restores the buffer. -/
theorem rotationsCompose : Obligations.RotationsCompose := by
  intro n a1 a2 b h1 h2
  have hsum := rotateLeft_bind_rotateLeft b h1 h2
  refine ⟨hsum, fun hzero => ?_⟩
  rw [hsum, hzero, rotateLeft_zero b (Nat.zero_lt_of_lt h1)]

/-! ### The byte image (40 R100, 20_memory.md R50) -/

/-- Buffer index `k` of a byte is its bit of weight `2^(7 - k)`. -/
theorem getLsbD_byte (x : Byte) {k : Nat} (hk : k < 8) : x.getLsbD (7 - k) = bitAt x k := by
  simp [bitAt, BitVec.getMsbD, hk]

theorem byteImage_length {n : Nat} (b : Buf n) : (byteImage b).length = (n + 7) / 8 := by
  simp [byteImage, byteCount]

theorem byteImage_getElem {n : Nat} (b : Buf n) {j : Nat} (hj : j < (byteImage b).length) :
    (byteImage b)[j] = imageByte b j := by
  simp [byteImage]

/-- Settles O56: byte `j` of the image is `imageByte b j`, whose bits are the buffer's or padding. -/
theorem byteImagePadsWithZeros : Obligations.ByteImagePadsWithZeros := by
  intro n b
  refine ⟨byteImage_length b, fun j hj k hk => ?_⟩
  rw [byteImage_getElem, getLsbD_byte _ hk, bitAt_imageByte b j k hk]
  by_cases h : 8 * j + k < n
  · rw [if_pos h, decide_eq_true h, Bool.true_and]
  · rw [if_neg h, decide_eq_false h, Bool.false_and]

/-! ### Parity bits (40 R115) -/

/-- No entry of the default PC1 is the position of a parity bit, 8, 16, … 64. -/
theorem defaultPc1_skips_parity : ∀ e ∈ defaultPc1, e % 8 ≠ 0 := by decide

/-- The index that an entry of the default PC1 selects: a key bit, and not the last of its byte. -/
theorem defaultPc1_index {i : Nat} (hi : i < 56) :
    defaultPc1.getD i 0 - 1 < 64 ∧ (defaultPc1.getD i 0 - 1) % 8 ≠ 7 := by
  have hgood := (tablesOk_iff _).mp tablesOk_default
  have hlen : i < defaultPc1.length := hi
  obtain ⟨hlow, hhigh⟩ := entry_within hgood.pc1_within hlen
  have hmem : defaultPc1.getD i 0 ∈ defaultPc1 := by
    rw [List.getD_eq_getElem _ _ hlen]
    exact List.getElem_mem hlen
  have hparity := defaultPc1_skips_parity _ hmem
  simp only [defaultTables] at hlow hhigh
  omega

/-- Keys that differ in parity bits only have the same halves under the default tables. -/
theorem splitKey_default_congr {k k' : Buf 64} (h : ∀ i, i < 64 → i % 8 ≠ 7 → bitAt k i = bitAt k' i) :
    splitKey defaultTables k = splitKey defaultTables k' := by
  have hgood := (tablesOk_iff _).mp tablesOk_default
  have hbit : ∀ i, i < 56 → bitAt k (defaultPc1.getD i 0 - 1) = bitAt k' (defaultPc1.getD i 0 - 1) := fun i hi =>
    h _ (defaultPc1_index hi).1 (defaultPc1_index hi).2
  rw [splitKey_of_good hgood, splitKey_of_good hgood]
  refine congrArg some (Prod.ext ?_ ?_)
  · exact bufOf_congr fun i hi => hbit i (by omega)
  · exact bufOf_congr fun i hi => hbit (28 + i) (by omega)

/-- The key enters `derive_subkeys` through its halves only (41 R130). -/
theorem deriveSubkeys_congr {cfg : Config.Tables} {k k' : Buf 64} (h : splitKey cfg k = splitKey cfg k') :
    deriveSubkeys cfg k = deriveSubkeys cfg k' := by
  simp only [deriveSubkeys, h]

/-- Settles O45: PC1 selects no parity bit, and the key enters the derivation through PC1 only. -/
theorem parityBitsDropped : Obligations.ParityBitsDropped :=
  fun _ _ h => deriveSubkeys_congr (splitKey_default_congr h)

end Sys2Proof.Machine

/-! PROOFS. The statements of 41_key_schedule_sequencer.md: the micro-operations LOAD and ROUND, `derive_subkeys` and its
closed form, and whole calls. -/

namespace Sys2Proof.Machine

/-! ### The micro-operations (41 R131, R133, R134) -/

theorem exec_load_of_ready {s : State} (h : s.loadReady = true) : exec .load s = microOutcome s.load :=
  if_pos h

theorem exec_load_of_not_ready {s : State} (h : s.loadReady = false) : exec .load s = .next s :=
  if_neg (Bool.eq_false_iff.mp h)

theorem exec_round_of_ready {s : State} (h : s.roundReady = true) : exec .round s = microOutcome s.runRound :=
  if_pos h

theorem exec_round_of_not_ready {s : State} (h : s.roundReady = false) : exec .round s = .next s :=
  if_neg (Bool.eq_false_iff.mp h)

/-- A key both halves of which hold values is the halves side by side (10_state.md R21). -/
theorem State.readKey_of_some {s : State} {k0 k1 : Buf 32} (h0 : s.key0 = some k0) (h1 : s.key1 = some k1) :
    s.readKey = k0 ++ k1 := by
  simp [State.readKey, h0, h1]

theorem State.readC_of_some {s : State} {c : Buf 28} (h : s.c = some c) : s.readC = c := by
  simp [State.readC, h]

theorem State.readD_of_some {s : State} {d : Buf 28} (h : s.d = some d) : s.readD = d := by
  simp [State.readD, h]

/-- The state LOAD makes of `s`, `c` and `d` being the halves of its permuted key (41 R133). -/
def State.loaded (s : State) (c d : Buf 28) : State :=
  { s with
    c := some c, d := some d, round := 0#5, phase := .run, keyvalid := 0#2, key0 := none, key1 := none,
    subkey := Vector.replicate 16 none }

/-- LOAD where the key can be split. -/
theorem State.load_of_splitKey {s : State} {c d : Buf 28} (h : splitKey s.cfg s.readKey = some (c, d)) :
    s.load = some (s.loaded c d) := by
  simp [State.load, h, State.loaded]

/-- Settles O7: outside RUN the sequencer has no step, so its turn is event intake alone. -/
theorem sequencerIdleOutsideRun : Obligations.SequencerIdleOutsideRun := by
  intro s hturn hp
  have hidle : s.taken.roundReady = false := Bool.eq_false_iff.mpr fun h => hp ((roundReady_iff s.taken).mp h).1
  rw [step_eq_exec_round hturn, exec_round_of_not_ready hidle, State.taken]

/-- The bits of the halves LOAD makes of a key under good tables (41 R133). -/
theorem splitKey_bits {cfg : Config.Tables} (h : GoodTables cfg) (key : Buf 64) :
    ∃ c d, splitKey cfg key = some (c, d) ∧ (∀ i, i < 28 → bitAt c i = bitAt key (cfg.pc1.getD i 0 - 1))
      ∧ ∀ i, i < 28 → bitAt d i = bitAt key (cfg.pc1.getD (28 + i) 0 - 1) :=
  ⟨_, _, splitKey_of_good h key, fun i hi => by simp [hi], fun i hi => by simp [hi]⟩

/-- Settles O13: LOAD's halves are PC1 of the key, and its other writes are fixed. -/
theorem loadSplitsThePermutedKey : Obligations.LoadSplitsThePermutedKey := by
  intro s hp ht hkv
  obtain ⟨c, d, hsplit, hc, hd⟩ := splitKey_bits ((tablesOk_iff _).mp ht) s.readKey
  refine ⟨c, d, s.loaded c d, ?_, rfl, rfl, rfl, hc, hd, ?_⟩
  · rw [exec_load_of_ready ((loadReady_iff s).mpr ⟨hp, ht, hkv⟩), State.load_of_splitKey hsplit, microOutcome]
  · intro k0 k1 h0 h1 i hi
    rw [State.readKey_of_some h0 h1]
    exact ⟨(bitAt_append k0 k1 i).trans (if_pos hi), (bitAt_append k0 k1 (32 + i)).trans (by simp)⟩

/-- Settles O14: `loadReady` and `roundReady` are the conditions, and without them the instruction is the identity. -/
theorem unselectedMicroOpsChangeNothing : Obligations.UnselectedMicroOpsChangeNothing := by
  constructor
  · intro s h
    exact exec_load_of_not_ready (Bool.eq_false_iff.mpr (mt (loadReady_iff s).mp h))
  · intro s h
    exact exec_round_of_not_ready (Bool.eq_false_iff.mpr (mt (roundReady_iff s).mp h))

/-- A bit of PC2 of two halves comes from C for the entries up to 28 and from D for the others. -/
theorem bitAt_permuteHalves (cfg : Config.Tables) (c d : Buf 28) {i : Nat} (hi : i < 48) :
    bitAt (permuteHalves cfg c d) i =
      if cfg.pc2.getD i 0 ≤ 28 then bitAt c (cfg.pc2.getD i 0 - 1) else bitAt d (cfg.pc2.getD i 0 - 29) := by
  have hle : cfg.pc2.getD i 0 - 1 < 28 ↔ cfg.pc2.getD i 0 ≤ 28 := by omega
  simp only [permuteHalves, bitAt_bufOf, hi, decide_true, Bool.true_and, hle, Nat.sub_sub]

/-- The bits of what a round makes of the halves under good tables (41 R134). -/
theorem roundOf_bits {cfg : Config.Tables} (h : GoodTables cfg) (c d : Buf 28) {r a : Nat}
    (hs : cfg.shifts[r]? = some a) :
    ∃ c' d' sk, roundOf cfg r c d = some (c', d', sk) ∧ (∀ i, i < 28 → bitAt c' i = bitAt c ((i + a) % 28))
      ∧ (∀ i, i < 28 → bitAt d' i = bitAt d ((i + a) % 28))
      ∧ ∀ i, i < 48 → bitAt sk i =
          if cfg.pc2.getD i 0 ≤ 28 then bitAt c' (cfg.pc2.getD i 0 - 1) else bitAt d' (cfg.pc2.getD i 0 - 29) :=
  ⟨_, _, _, roundOf_of_good h c d hs, fun i hi => by simp [hi], fun i hi => by simp [hi],
    fun _ hi => bitAt_permuteHalves cfg _ _ hi⟩

/-- ROUND's count does not wrap. -/
theorem toNat_round_succ {r : BitVec 5} (h : r.toNat < 16) : (r + 1#5).toNat = r.toNat + 1 := by
  bv_omega

/-- Settles O15: a round's halves and subkey by their bits, and PHASE by whether the round is the sixteenth. -/
theorem roundComputesOneSubkey : Obligations.RoundComputesOneSubkey := by
  intro s hp hlt ht
  have hgood := (tablesOk_iff _).mp ht
  obtain ⟨a, ha, hamount⟩ := shifts_getElem hgood hlt
  obtain ⟨c, d, sk, hround, hc, hd, hsk⟩ := roundOf_bits hgood s.readC s.readD ha
  refine ⟨a, c, d, sk, s.subkey.setIfInBounds s.round.toNat (some sk), _, ha, hamount, ?_, rfl, toNat_round_succ hlt,
    ?_, ?_, hc, hd, hsk, ?_⟩
  · rw [exec_round_of_ready ((roundReady_iff s).mpr ⟨hp, hlt⟩), State.runRound, hround]
    simp only [microOutcome, hp, Nat.reduceEqDiff]
  · by_cases hlast : s.round.toNat = 15 <;> simp [State.doneO, hlast]
  · by_cases hlast : s.round.toNat = 15 <;> simp [State.busyO, hlast]
  · intro i
    simp only [Fin.getElem_fin, Vector.getElem_setIfInBounds, eq_comm]

/-! ### `derive_subkeys` (41 R130, R139) -/

/-- A configuration that fails `tablesOk` gives no subkey (93_implementation_defined.md X20). -/
theorem deriveSubkeys_of_malformed {cfg : Config.Tables} (h : tablesOk cfg = false) (key : Buf 64) :
    deriveSubkeys cfg key = none := by
  simp [deriveSubkeys, h]

/-- The sixteen subkeys in closed form (41 R139). -/
theorem deriveSubkeys_getElem? {cfg : Config.Tables} (h : GoodTables cfg) {key : Buf 64} {c d : Buf 28}
    (hs : splitKey cfg key = some (c, d)) :
    ∃ subkeys, deriveSubkeys cfg key = some subkeys ∧ subkeys.length = 16
      ∧ ∀ k, k < 16 → subkeys[k]? = some (permuteHalves cfg
          (rotHalf c (shiftSum cfg (k + 1))) (rotHalf d (shiftSum cfg (k + 1)))) := by
  rw [deriveSubkeys_of_good h hs]
  exact roundsFrom_getElem? h 16 0 (by decide) c d

theorem rotateLeft_eq_rotHalf (b : Buf 28) {a : Nat} (ha : a < 28) : rotateLeft b 28 a = some (rotHalf b a) :=
  rotateLeft_of_lt b (Nat.le_refl 28) ha

/-- Two whole buffers side by side (40 R109). -/
theorem concatenate_whole {n m : Nat} (a : Buf n) (b : Buf m) : concatenate a n b m = some (a ++ b) := by
  rw [concatenate_of_le a b (Nat.le_refl n) (Nat.le_refl m)]
  refine congrArg some (buf_ext fun i hi => ?_)
  simp [bitAt_append, hi]

/-- PC2 of the joined halves (41 R134). -/
theorem selectPc2_append {cfg : Config.Tables} (h : GoodTables cfg) (c d : Buf 28) :
    (selectByTable (c ++ d) cfg.pc2).bind (ofLength 48) = some (permuteHalves cfg c d) := by
  rw [selectByTable_of_within _ _ h.pc2_within, Option.bind_some, ofLength_of_eq h.pc2_length]
  refine congrArg some (buf_ext fun i hi => ?_)
  have hi' : i < cfg.pc2.length := h.pc2_length ▸ hi
  simp only [bitAt_cast, permuteHalves, bitAt_bufOf, hi, hi', decide_true, Bool.true_and, bitAt_append]

/-- The default PC2 takes the first 24 bits of a subkey from C. -/
theorem defaultPc2_firstHalf : ∀ i < 24, defaultPc2.getD i 0 ≤ 28 := by decide

/-- The default PC2 takes the last 24 bits of a subkey from D. -/
theorem defaultPc2_lastHalf : ∀ i < 48, 24 ≤ i → 28 < defaultPc2.getD i 0 := by decide

/-- Settles O44: the closed form of the sixteen rounds; the default PC2 keeps the two halves apart. -/
theorem subkeyClosedForm : Obligations.SubkeyClosedForm := by
  constructor
  · intro cfg key c d k ht hs
    have hgood := (tablesOk_iff cfg).mp ht
    have hamount : shiftSum cfg (k.val + 1) % 28 < 28 := Nat.mod_lt _ (by decide)
    obtain ⟨subkeys, hderive, -, hget⟩ := deriveSubkeys_getElem? hgood hs
    refine ⟨subkeys, _, _, _, _, hderive, hget k k.isLt, rotateLeft_eq_rotHalf c hamount,
      rotateLeft_eq_rotHalf d hamount, concatenate_whole _ _, ?_⟩
    rw [rotHalf_mod, rotHalf_mod, selectPc2_append hgood]
  · intro key key' c d c' d' subkeys subkeys' k sk sk' hs hs' hderive hderive' hsk hsk'
    have hgood := (tablesOk_iff _).mp tablesOk_default
    obtain ⟨l, hl, -, hget⟩ := deriveSubkeys_getElem? hgood hs
    obtain ⟨l', hl', -, hget'⟩ := deriveSubkeys_getElem? hgood hs'
    obtain rfl := Option.some.inj (hderive.symm.trans hl)
    obtain rfl := Option.some.inj (hderive'.symm.trans hl')
    obtain rfl := Option.some.inj (hsk.symm.trans (hget k k.isLt))
    obtain rfl := Option.some.inj (hsk'.symm.trans (hget' k k.isLt))
    constructor
    · rintro rfl i hi
      have hfirst : defaultTables.pc2.getD i 0 ≤ 28 := defaultPc2_firstHalf i hi
      simp only [bitAt_permuteHalves _ _ _ (show i < 48 by omega), if_pos hfirst]
    · rintro rfl i hlo hi
      have hlast : ¬ defaultTables.pc2.getD i 0 ≤ 28 := Nat.not_le.mpr (defaultPc2_lastHalf i hi hlo)
      simp only [bitAt_permuteHalves _ _ _ hi, if_neg hlast]

/-- Settles O59: good tables split every key and give sixteen rounds; malformed ones are refused first. -/
theorem derivedOnlyUnderGoodTables : Obligations.DerivedOnlyUnderGoodTables := by
  intro cfg key
  refine ⟨fun ht => ?_, fun ht => deriveSubkeys_of_malformed ht key⟩
  have hgood := (tablesOk_iff cfg).mp ht
  obtain ⟨subkeys, hderive, hlen, -⟩ := deriveSubkeys_getElem? hgood (splitKey_of_good hgood key)
  exact ⟨subkeys, hderive, hlen⟩

/-- Settles O46: `derive_subkeys` of the test key, evaluated. -/
theorem knownAnswer : Obligations.KnownAnswer := by
  unfold Obligations.KnownAnswer
  decide +kernel

/-! ### A call that nothing interrupts (41 R132) -/

/-- A turn of the sequencer in RUN under good tables, no event waiting: one more round, DONE with the sixteenth. -/
theorem step_of_running {s : State} (hp : s.phase = .run) (hlt : s.round.toNat < 16) (ht : tablesOk s.cfg = true)
    (hin : s.inputs = []) : ∃ t, step s = .next t ∧ t.round.toNat = s.round.toNat + 1
      ∧ t.phase = (if s.round.toNat + 1 = 16 then .done else .run) ∧ t.inputs = [] := by
  obtain ⟨t, hround⟩ := State.runRound_isSome (s := s.taken) ht hlt
  refine ⟨t, ?_, ?_⟩
  · rw [step_eq_exec_round (by rw [nextEvent_nil hin]),
      exec_round_of_ready ((roundReady_iff s.taken).mpr ⟨hp, hlt⟩), hround]
    rfl
  · obtain ⟨c, d, sk, -, rfl⟩ := State.runRound_eq_some hround
    exact ⟨toNat_round_succ hlt, hp ▸ rfl, by simp [State.taken, nextEvent_nil hin]⟩

/-- `k` turns of the sequencer make `k` rounds. The hypothesis on PHASE holds again after each of them. -/
theorem run_of_running (k : Nat) {s : State} (hp : s.phase = if s.round.toNat = 16 then .done else .run)
    (hk : s.round.toNat + k ≤ 16) (ht : tablesOk s.cfg = true) (hin : s.inputs = []) :
    ∃ t, Sys2Proof.core.run k s = .next t ∧ t.round.toNat = s.round.toNat + k
      ∧ t.phase = if s.round.toNat + k = 16 then .done else .run := by
  induction k generalizing s with
  | zero => exact ⟨s, rfl, rfl, hp⟩
  | succ k ih =>
    have hrun : s.phase = .run := hp.trans (if_neg (by omega))
    obtain ⟨u, hu, hround, hphase, hin'⟩ := step_of_running hrun (by omega) ht hin
    obtain ⟨t, hrest, hend⟩ := ih (hround ▸ hphase) (by omega) (step_cfg hu ▸ ht) hin'
    rw [hround, Nat.add_assoc, Nat.add_comm 1 k] at hend
    exact ⟨t, (run_succ k hu).trans hrest, hend⟩

/-- Settles O37: each step of the run is a round, and PHASE is DONE exactly when ROUND is 16. -/
theorem remainingRoundsReachDone : Obligations.RemainingRoundsReachDone := by
  intro s hp hlt ht hin
  have hphase : s.phase = if s.round.toNat = 16 then .done else .run := hp.trans (if_neg (by omega)).symm
  constructor
  · obtain ⟨t, hrun, hround, hdone⟩ := run_of_running (16 - s.round.toNat) hphase (by omega) ht hin
    exact ⟨t, hrun, hdone.trans (if_pos (by omega)), by bv_omega⟩
  · intro k t hk hrun
    obtain ⟨u, hrun', -, hrest⟩ := run_of_running k hphase (by omega) ht hin
    obtain rfl := Host.Outcome.next.inj (hrun.symm.trans hrun')
    exact hrest.trans (if_neg (by omega))

/-! ### A call among any events (41 R138) -/

/-- What a step that does not cut a call short makes of it, `c` and `d` being its halves: nothing, or one round. -/
inductive CallStep (s : State) (c d : Buf 28) (t : State) : Prop where
  /-- a beat that is served, or a turn with no step -/
  | kept (hc : t.c = s.c) (hd : t.d = s.d) (hsk : t.subkey = s.subkey) (hr : t.round = s.round) (hp : t.phase = .run)
  /-- ROUND -/
  | advanced {c' d' : Buf 28} {sk : Buf 48} (hround : roundOf s.cfg s.round.toNat c d = some (c', d', sk))
      (hc : t.c = some c') (hd : t.d = some d') (hsk : t.subkey = s.subkey.setIfInBounds s.round.toNat (some sk))
      (hr : t.round.toNat = s.round.toNat + 1) (hp : t.phase = if s.round.toNat + 1 = 16 then .done else .run)

/-- In RUN a beat after which the call still runs or is done is a bare response or a key write. -/
theorem BeatEffect.keeps_running {s t : State} {b : Beat} (h : BeatEffect s b (.next t)) (hp : s.phase = .run)
    (ht : t.phase = .run ∨ t.phase = .done) :
    t.c = s.c ∧ t.d = s.d ∧ t.subkey = s.subkey ∧ t.round = s.round ∧ t.phase = .run := by
  cases h with
  | answered | wroteKey0 | wroteKey1 => exact ⟨rfl, rfl, rfl, rfl, hp⟩
  | refused h => simp [hp] at h
  | started u hr hl hb => simp [State.loadReady, hp] at hr
  | trapped | cleared => simp at ht

/-- In RUN a step after which the call still runs or is done leaves it or makes one round. -/
theorem step_callStep {s t : State} {c d : Buf 28} (hp : s.phase = .run) (hc : s.c = some c) (hd : s.d = some d)
    (h : step s = .next t) (ht : t.phase = .run ∨ t.phase = .done) : CallStep s c d t := by
  rcases step_next_cases h with ⟨b, -, he⟩ | ⟨-, hr, hround⟩ | ⟨-, -, rfl⟩ | ⟨-, rfl⟩
  · obtain ⟨hc', hd', hsk, hr, hp'⟩ := he.keeps_running hp ht
    exact .kept hc' hd' hsk hr hp'
  · obtain ⟨-, hlt⟩ := (roundReady_iff s.taken).mp hr
    obtain ⟨c', d', sk, hmade, rfl⟩ := State.runRound_eq_some hround
    rw [State.readC_of_some (s := s.taken) hc, State.readD_of_some (s := s.taken) hd] at hmade
    exact .advanced hmade rfl rfl rfl (toNat_round_succ hlt) (hp ▸ rfl)
  · exact .kept rfl rfl rfl rfl hp
  · simp at ht

/-- The rounds from `r` on, after the first of them. -/
theorem roundsFrom_succ {cfg : Config.Tables} {r : Nat} {c d c' d' : Buf 28} {sk : Buf 48} (n : Nat)
    (h : roundOf cfg r c d = some (c', d', sk)) :
    roundsFrom cfg (n + 1) r c d = (roundsFrom cfg n (r + 1) c' d').map (sk :: ·) := by
  simp [roundsFrom, h]

/-- The halves after the rounds from `r` on, after the first of them. -/
theorem halvesAfter_succ {cfg : Config.Tables} {r : Nat} {c d c' d' : Buf 28} {sk : Buf 48} (n : Nat)
    (h : roundOf cfg r c d = some (c', d', sk)) : halvesAfter cfg (n + 1) r c d = halvesAfter cfg n (r + 1) c' d' := by
  simp [halvesAfter, h]

/-- A list of subkeys computed up to `r` stays so when the one numbered `r` is stored. -/
theorem storedBelow_setIfInBounds {v : Vector (Option (Buf 48)) 16} {l : List (Buf 48)} {r : Nat} {sk : Buf 48}
    (h : ∀ i : Fin 16, i.val < r → v[i] = l[i.val]?) (hsk : l[r]? = some sk) (i : Fin 16) (hi : i.val < r + 1) :
    (v.setIfInBounds r (some sk))[i] = l[i.val]? := by
  simp only [Fin.getElem_fin, Vector.getElem_setIfInBounds] at h ⊢
  split
  · rename_i he
    rw [← he, hsk]
  · exact h i (by omega)

/-- A step of a tracked call (41 R138's induction). -/
theorem State.Tracks.step {key : Buf 64} {s t : State} (hi : s.Tracks key) (hp : s.phase = .run)
    (hlt : s.round.toNat < 16) (h : step s = .next t) (ht : t.phase = .run ∨ t.phase = .done) : t.Tracks key := by
  obtain ⟨subkeys, c, d, hderive, hc, hd, howed, hstored⟩ := hi
  rw [State.Tracks, step_cfg h]
  cases step_callStep hp hc hd h ht with
  | kept hc' hd' hsk hr =>
    rw [hr, hsk]
    exact ⟨subkeys, c, d, hderive, hc'.trans hc, hd'.trans hd, howed, hstored⟩
  | @advanced c' d' sk hround hc' hd' hsk hr =>
    rw [show 16 - s.round.toNat = 16 - (s.round.toNat + 1) + 1 by omega, roundsFrom_succ _ hround,
      Option.map_eq_some_iff] at howed
    obtain ⟨rest, hrest, hcons⟩ := howed
    have hhead : subkeys[s.round.toNat]? = some sk := by rw [← List.head?_drop, ← hcons, List.head?_cons]
    have htail : rest = subkeys.drop (s.round.toNat + 1) := by rw [← List.tail_drop, ← hcons, List.tail_cons]
    rw [hr, hsk]
    exact ⟨subkeys, c', d', hderive, hc', hd', htail ▸ hrest, storedBelow_setIfInBounds hstored hhead⟩

/-- Settles O38: the induction step of a tracked call. -/
theorem trackingKeptWhileRunning : Obligations.TrackingKeptWhileRunning :=
  fun _ _ _ hp hlt hi h ht => hi.step hp hlt h ht

/-- The rounds a call still owes take its halves to `c0` and `d0`. -/
def State.TurnsTo (s : State) (c0 d0 : Buf 28) : Prop :=
  ∃ c d, s.c = some c ∧ s.d = some d
    ∧ halvesAfter s.cfg (16 - s.round.toNat) s.round.toNat c d = some (c0, d0)

theorem State.TurnsTo.step {c0 d0 : Buf 28} {s t : State} (hi : s.TurnsTo c0 d0) (hp : s.phase = .run)
    (hlt : s.round.toNat < 16) (h : step s = .next t) (ht : t.phase = .run ∨ t.phase = .done) : t.TurnsTo c0 d0 := by
  obtain ⟨c, d, hc, hd, howed⟩ := hi
  rw [State.TurnsTo, step_cfg h]
  cases step_callStep hp hc hd h ht with
  | kept hc' hd' hsk hr =>
    rw [hr]
    exact ⟨c, d, hc'.trans hc, hd'.trans hd, howed⟩
  | @advanced c' d' sk hround hc' hd' hsk hr =>
    rw [show 16 - s.round.toNat = 16 - (s.round.toNat + 1) + 1 by omega, halvesAfter_succ _ hround] at howed
    rw [hr]
    exact ⟨c', d', hc', hd', howed⟩

/-- The call of `key`, whose halves under PC1 are `c0` and `d0`, in RUN or DONE. -/
structure State.InCall (cfg : Config.Tables) (key : Buf 64) (c0 d0 : Buf 28) (s : State) : Prop where
  cfg_eq : s.cfg = cfg
  tracks : s.Tracks key
  turns : s.TurnsTo c0 d0
  position : (s.phase = .run ∧ s.round.toNat < 16) ∨ (s.phase = .done ∧ s.round = 16#5)

section
variable {cfg : Config.Tables} {key : Buf 64} {c0 d0 : Buf 28} {s t : State}

/-- In RUN a call has rounds left to make. -/
theorem State.InCall.round_lt (hi : s.InCall cfg key c0 d0) (hp : s.phase = .run) : s.round.toNat < 16 := by
  rcases hi.position with ⟨-, hlt⟩ | ⟨hdone, -⟩
  · exact hlt
  · simp [hp] at hdone

/-- A step that does not cut the call short keeps it. -/
theorem State.InCall.step (hi : s.InCall cfg key c0 d0) (hp : s.phase = .run) (h : step s = .next t)
    (ht : t.phase = .run ∨ t.phase = .done) : t.InCall cfg key c0 d0 := by
  have hlt := hi.round_lt hp
  refine ⟨(step_cfg h).trans hi.cfg_eq, hi.tracks.step hp hlt h ht, hi.turns.step hp hlt h ht, ?_⟩
  obtain ⟨c, d, hc, hd, -⟩ := hi.turns
  cases step_callStep hp hc hd h ht with
  | kept _ _ _ hr hp' => exact .inl ⟨hp', hr ▸ hlt⟩
  | advanced _ _ _ _ hr hp' =>
    by_cases hlast : s.round.toNat + 1 = 16
    · exact .inr ⟨hp'.trans (if_pos hlast), by bv_omega⟩
    · exact .inl ⟨hp'.trans (if_neg hlast), by omega⟩

/-- A run that stays in RUN until it ends in RUN or DONE keeps the call. -/
theorem State.InCall.run (k : Nat) (hi : s.InCall cfg key c0 d0)
    (hstay : ∀ m u, m < k → Sys2Proof.core.run m s = .next u → u.phase = .run)
    (h : Sys2Proof.core.run k s = .next t) (ht : t.phase = .run ∨ t.phase = .done) : t.InCall cfg key c0 d0 := by
  induction k generalizing s with
  | zero => exact Host.Outcome.next.inj h ▸ hi
  | succ k ih =>
    obtain ⟨u, hu, hrest⟩ := run_succ_eq_next h
    have hp : s.phase = .run := hstay 0 s (Nat.succ_pos k) rfl
    have hu' : u.phase = .run ∨ u.phase = .done := by
      cases k with
      | zero => exact Host.Outcome.next.inj hrest ▸ ht
      | succ k => exact .inl (hstay 1 u (by omega) (run_one hu))
    exact ih (hi.step hp hu hu')
      (fun m v hm hv => hstay (m + 1) v (Nat.succ_lt_succ hm) ((run_succ m hu).trans hv)) hrest

/-- A finished call holds all subkeys of its key and the halves it began with. -/
theorem State.InCall.done (hi : s.InCall cfg key c0 d0) (hp : s.phase = .done) :
    ∃ subkeys, deriveSubkeys cfg key = some subkeys ∧ (∀ i : Fin 16, s.subkey[i] = subkeys[i.val]?)
      ∧ s.c = some c0 ∧ s.d = some d0 ∧ s.round = 16#5 := by
  obtain ⟨rfl, ⟨subkeys, -, -, hderive, -, -, -, hstored⟩, ⟨c, d, hc, hd, hturn⟩, ⟨hrun, -⟩ | ⟨-, hr⟩⟩ := hi
  · simp [hp] at hrun
  · rw [hr] at hstored hturn
    obtain ⟨rfl, rfl⟩ := Prod.mk.inj (Option.some.inj hturn)
    exact ⟨subkeys, hderive, fun i => hstored i i.isLt, hc, hd, hr⟩

end

/-- What LOAD leaves is the call of the key it split, before the first round. -/
theorem State.loaded_inCall {s : State} {key : Buf 64} {c d : Buf 28} (ht : tablesOk s.cfg = true)
    (hs : splitKey s.cfg key = some (c, d)) (v : Word) : ((s.loaded c d).respond v).InCall s.cfg key c d := by
  have hgood := (tablesOk_iff _).mp ht
  obtain ⟨subkeys, hderive, -⟩ := deriveSubkeys_getElem? hgood hs
  refine ⟨rfl, ⟨subkeys, c, d, hderive, rfl, rfl, (deriveSubkeys_of_good hgood hs).symm.trans hderive, ?_⟩,
    ⟨c, d, rfl, rfl, halvesReturnAfterSixteenRounds s.cfg c d ht⟩, .inl ⟨rfl, Nat.zero_lt_succ 15⟩⟩
  exact fun i hi => absurd hi (Nat.not_lt_zero i)

/-- START where its tests pass is LOAD and the response (42 R164). -/
theorem exec_wrCmdStart_of_ready {s : State} (h : s.loadReady = true) :
    exec .wrCmdStart s = microOutcome (s.load.map (·.respond 0#32)) := by
  obtain ⟨hp, ht, hkv⟩ := (loadReady_iff s).mp h
  have hcall : exec .wrCmdStart s = s.startCall := by
    rcases hp with hp | hp <;> simp [exec, execWrCmdStart, hp]
  simp [hcall, State.startCall, ht, hkv]

/-- The conditions under which the next event is a START that is accepted with the key `k0 ++ k1`. -/
structure State.Starts (s : State) (k0 k1 : Buf 32) : Prop where
  next : s.nextEvent.1 = .beat startBeat
  phase : s.phase = .idle ∨ s.phase = .done
  tables : tablesOk s.cfg = true
  keyvalid : s.keyvalid = 0b11#2
  key0 : s.key0 = some k0
  key1 : s.key1 = some k1

/-- An accepted START begins the call of its key. -/
theorem State.Starts.step {s u : State} {k0 k1 : Buf 32} {c d : Buf 28} (hst : s.Starts k0 k1)
    (hs : splitKey s.cfg (k0 ++ k1) = some (c, d)) (h : step s = .next u) : u.InCall s.cfg (k0 ++ k1) c d := by
  have hready : s.taken.loadReady = true := (loadReady_iff s.taken).mpr ⟨hst.phase, hst.tables, hst.keyvalid⟩
  have hload : s.taken.load = some (s.taken.loaded c d) := by
    apply State.load_of_splitKey
    rw [State.readKey_of_some (s := s.taken) hst.key0 hst.key1]
    exact hs
  rw [step_of_decoded hst.next (by decide : decodeBeat startBeat = .ok .wrCmdStart), exec_wrCmdStart_of_ready hready,
    hload] at h
  exact Host.Outcome.next.inj h ▸ State.loaded_inCall (s := s.taken) hst.tables hs 0#32

/-- A call that reaches DONE, whatever events it holds, is the call of the key START found. -/
theorem State.Starts.inCall_of_run {s t : State} {k0 k1 : Buf 32} {c d : Buf 28} {n : Nat} (hst : s.Starts k0 k1)
    (hs : splitKey s.cfg (k0 ++ k1) = some (c, d))
    (hstay : ∀ m u, 1 ≤ m → m < n → Sys2Proof.core.run m s = .next u → u.phase = .run)
    (h : Sys2Proof.core.run n s = .next t) (hn : 1 ≤ n) (ht : t.phase = .done) : t.InCall s.cfg (k0 ++ k1) c d := by
  obtain ⟨k, rfl⟩ := Nat.exists_eq_add_of_le' hn
  obtain ⟨u, hu, hrest⟩ := run_succ_eq_next h
  refine (hst.step hs hu).run k (fun m v hm hv => ?_) hrest (.inr ht)
  exact hstay (m + 1) v (Nat.le_add_left 1 m) (Nat.succ_lt_succ hm) ((run_succ m hu).trans hv)

/-- Settles O39: START begins the call of its key, every step to DONE keeps it, and in DONE no round is owed. -/
theorem callYieldsDerivedSubkeys : Obligations.CallYieldsDerivedSubkeys := by
  intro s t rest k0 k1 n hin hp htab hkv h0 h1 hstay hrun hn ht
  have hst : s.Starts k0 k1 := ⟨congrArg Prod.fst (nextEvent_cons hin), hp, htab, hkv, h0, h1⟩
  have hgood := (tablesOk_iff _).mp htab
  have hs := splitKey_of_good hgood (k0 ++ k1)
  obtain ⟨subkeys, hderive, hstored, hc, hd, hr⟩ := (hst.inCall_of_run hs hstay hrun hn ht).done ht
  obtain ⟨l, hl, hlen, -⟩ := deriveSubkeys_getElem? hgood hs
  obtain rfl := Option.some.inj (hl.symm.trans hderive)
  exact ⟨l, _, _, hderive, hs, hlen, hstored, hc, hd, hr⟩

/-- Settles O40: both calls hold `derive_subkeys` of the one key under the one configuration, and its halves. -/
theorem sameKeySameSubkeys : Obligations.SameKeySameSubkeys := by
  intro s s' t t' rest rest' k0 k1 n n' hin hin' hp hp' htab hcfg hkv hkv' h0 h1 h0' h1' hstay hstay' hrun hrun'
    hn hn' ht ht'
  obtain ⟨l, c, d, hl, hs, -, hstored, hc, hd, -⟩ :=
    callYieldsDerivedSubkeys s t rest k0 k1 n hin hp htab hkv h0 h1 hstay hrun hn ht
  obtain ⟨l', c', d', hl', hs', -, hstored', hc', hd', -⟩ :=
    callYieldsDerivedSubkeys s' t' rest' k0 k1 n' hin' hp' (hcfg ▸ htab) hkv' h0' h1' hstay' hrun' hn' ht'
  rw [hcfg] at hl' hs'
  obtain rfl := Option.some.inj (hl.symm.trans hl')
  obtain ⟨rfl, rfl⟩ := Prod.mk.inj (Option.some.inj (hs.symm.trans hs'))
  refine ⟨Vector.ext fun i hi => ?_, hc'.trans hc.symm, hd'.trans hd.symm⟩
  exact (hstored' ⟨i, hi⟩).trans (hstored ⟨i, hi⟩).symm

end Sys2Proof.Machine

/-! PROOFS. The statements of 42_host_access_and_commands.md: the commands, the key writes, the reads word bit by word
bit, illegal beats, the refusals in ERROR, and the data of a response. -/

namespace Sys2Proof.Machine

/-! ### Commands (42 R163 to R165) -/

/-- Settles O10: NOP is a bare response. -/
theorem nopChangesNothing : Obligations.NopChangesNothing :=
  fun _ => rfl

/-- A cycle that presents CLEAR is that beat alone: the sequencer's step is suppressed. -/
theorem clockCycle_clear {p : PortIn} (s : State) (hrst : p.rstN = true) (hreq : p.req = true)
    (hb : p.beat = clearBeat) : clockCycle p s = runEvent (.beat p.beat) s := by
  have hclear : isClear p.beat = true := (isClear_iff p.beat).mpr hb
  simp only [clockCycle, hrst, hreq, hclear, Bool.true_eq_false, and_false, if_false]
  cases runEvent (.beat p.beat) s <;> rfl

/-- Settles O11: CLEAR is `State.clear` and a response, and the sequencer makes no step in its cycle. -/
theorem clearRestoresResetState : Obligations.ClearRestoresResetState := by
  refine ⟨fun s => ⟨s.clear.respond 0#32, rfl, ?_⟩, fun p s => clockCycle_clear s⟩
  exact ⟨rfl, rfl, rfl, rfl, rfl, rfl, rfl, rfl, rfl, rfl, rfl, rfl, rfl, rfl, rfl, rfl, rfl⟩

theorem exec_wrCmdStart_of_error {s : State} (h : s.phase = .error) : exec .wrCmdStart s = .next s.refuse := by
  simp [exec, execWrCmdStart, h]

/-- START in RUN (60 R204). -/
theorem exec_wrCmdStart_of_run {s : State} (h : s.phase = .run) :
    exec .wrCmdStart s = .next (s.trap .seq 0x00#8 true) := by
  simp [exec, execWrCmdStart, h, PortReg.addr]

/-- START in IDLE or DONE makes its tests of the tables and of the key. -/
theorem exec_wrCmdStart_of_idle_or_done {s : State} (h : s.phase = .idle ∨ s.phase = .done) :
    exec .wrCmdStart s = s.startCall := by
  rcases h with h | h <;> simp [exec, execWrCmdStart, h]

/-- START with malformed tables (60 R202). -/
theorem State.startCall_of_bad_tables {s : State} (h : tablesOk s.cfg = false) :
    s.startCall = .next (s.trap .table 0x00#8 true) :=
  if_pos h

/-- START with good tables and without both halves of the key (60 R201). -/
theorem State.startCall_of_no_key {s : State} (ht : tablesOk s.cfg ≠ false) (hk : s.keyvalid ≠ 0b11#2) :
    s.startCall = .next (s.trap .keylen 0x00#8 true) :=
  (if_neg ht).trans (if_pos hk)

/-- Settles O12: the tests in the order of `execWrCmdStart` and `startCall`; when all pass, START is LOAD and the
response. -/
theorem startFollowsItsTests : Obligations.StartFollowsItsTests := by
  intro s
  split
  · rename_i herror
    exact exec_wrCmdStart_of_error herror
  split
  · rename_i hrun
    exact exec_wrCmdStart_of_run hrun
  rename_i hne hnr
  have hp : s.phase = .idle ∨ s.phase = .done := by
    cases h : s.phase with
    | idle => exact .inl rfl
    | done => exact .inr rfl
    | run => exact absurd h hnr
    | error => exact absurd h hne
  split
  · rename_i ht
    rw [exec_wrCmdStart_of_idle_or_done hp, State.startCall_of_bad_tables ht]
  split
  · rename_i ht hk
    rw [exec_wrCmdStart_of_idle_or_done hp, State.startCall_of_no_key ht hk]
  · rename_i ht hk
    have hready : s.loadReady = true :=
      (loadReady_iff s).mpr ⟨hp, (Bool.not_eq_false _).mp ht, not_ne_iff.mp hk⟩
    obtain ⟨t, hload⟩ := State.load_isSome ((Bool.not_eq_false _).mp ht)
    obtain ⟨c, d, -, ht⟩ := State.load_eq_some hload
    have hrun : t.phase = .run := ht ▸ rfl
    rw [exec_load_of_ready hready, exec_wrCmdStart_of_ready hready, hload]
    exact ⟨t, rfl, rfl, hrun, by simp [State.busyO, hrun], by simp [State.doneO, hrun]⟩

/-! ### Key writes (42 R166, R167) -/

/-- The half of KEY a key word carries, bit by bit (20_memory.md R52). -/
theorem bitAt_keyHalf (v : Word) {j : Nat} (hj : j < 32) : bitAt (keyHalf v) j = v.getLsbD (31 - j) := by
  rw [keyHalf, unpack32_eq, bitAt_word v hj]

/-- Settles O16: outside ERROR the half and its bit of KEYVALID are written, and nothing else but the response. -/
theorem writeKey0SetsItsHalf : Obligations.WriteKey0SetsItsHalf := by
  intro v s
  constructor
  · intro h
    exact congrArg Host.Outcome.next (State.unlessError_of_error _ h)
  · intro h
    obtain ⟨hset, hkept⟩ := setKey0Valid_bits s.keyvalid
    refine ⟨keyHalf v, setKey0Valid s.keyvalid, _, congrArg Host.Outcome.next (State.unlessError_of_ne_error _ h), rfl,
      fun _ => bitAt_keyHalf v, hset, hkept, ?_⟩
    rw [statusWord_bit]
    exact hset

/-- Settles O17: as KEY0, with the other half and the other bit of KEYVALID. -/
theorem writeKey1SetsItsHalf : Obligations.WriteKey1SetsItsHalf := by
  intro v s
  constructor
  · intro h
    exact congrArg Host.Outcome.next (State.unlessError_of_error _ h)
  · intro h
    obtain ⟨hset, hkept⟩ := setKey1Valid_bits s.keyvalid
    refine ⟨keyHalf v, setKey1Valid s.keyvalid, _, congrArg Host.Outcome.next (State.unlessError_of_ne_error _ h), rfl,
      fun _ => bitAt_keyHalf v, hset, hkept, ?_⟩
    rw [statusWord_bit]
    exact hset

/-! ### RD STATUS (42 R168) -/

/-- A field of a word, by its bits. -/
theorem extractLsb'_eq_of_bits {w : Word} {start len : Nat} {x : BitVec len}
    (h : ∀ i, i < len → w.getLsbD (start + i) = x.getLsbD i) : w.extractLsb' start len = x := by
  apply BitVec.eq_of_getLsbD_eq
  intro i hi
  simp [hi, h i hi]

theorem statusWord_phase (s : State) : s.statusWord.extractLsb' 0 2 = s.phase.code :=
  extractLsb'_eq_of_bits fun i hi => by simp [statusWord_bit, hi]

theorem statusWord_round (s : State) : s.statusWord.extractLsb' 4 5 = s.round :=
  extractLsb'_eq_of_bits fun i hi => by
    rw [statusWord_bit, if_neg (by omega), if_neg (by omega), if_pos (by omega), Nat.add_sub_cancel_left]

theorem statusWord_reserved (s : State) : s.statusWord.extractLsb' 9 23 = 0#23 :=
  extractLsb'_eq_of_bits fun i hi => by
    rw [statusWord_bit, if_neg (by omega), if_neg (by omega), if_neg (by omega), BitVec.getLsbD_zero]

/-- In RUN a step after which the call still runs or is done keeps ROUND, or counts one more round. -/
theorem step_round_of_running {s t : State} (hp : s.phase = .run) (h : step s = .next t)
    (ht : t.phase = .run ∨ t.phase = .done) :
    (t.round = s.round ∧ t.phase = .run)
      ∨ (t.round = s.round + 1#5 ∧ t.phase = if s.round.toNat + 1 = 16 then .done else .run) := by
  rcases step_next_cases h with ⟨b, -, he⟩ | ⟨-, -, hround⟩ | ⟨-, -, rfl⟩ | ⟨-, rfl⟩
  · obtain ⟨-, -, -, hr, hp'⟩ := he.keeps_running hp ht
    exact .inl ⟨hr, hp'⟩
  · obtain ⟨c, d, sk, -, rfl⟩ := State.runRound_eq_some hround
    exact .inr ⟨rfl, hp ▸ rfl⟩
  · exact .inl ⟨rfl, hp⟩
  · simp at ht

/-- Settles O18: the fields of STATUS, and ROUND kept or counted up by a step of a call. -/
theorem statusReadFields : Obligations.StatusReadFields := by
  constructor
  · intro s
    refine ⟨s.statusWord, rfl, ?_, statusWord_bit s 2, statusWord_bit s 3, statusWord_round s, statusWord_reserved s⟩
    rw [statusWord_phase]
    cases s.phase <;> rfl
  · intro s t hp hlt h
    constructor
    · intro ht
      rcases step_round_of_running hp h (.inl ht) with ⟨hr, -⟩ | ⟨hr, -⟩
      · rw [hr]
      · rw [hr, toNat_round_succ hlt]
        exact Nat.le_succ _
    · intro ht
      rcases step_round_of_running hp h (.inr ht) with ⟨-, hrun⟩ | ⟨hr, hphase⟩
      · simp [ht] at hrun
      · have hlast : s.round.toNat + 1 = 16 := by
          by_contra hne
          simp [ht, hne] at hphase
        bv_omega

/-! ### RD ERRINFO (42 R169) -/

theorem errinfoWord_cause (s : State) : s.errinfoWord.extractLsb' 0 4 = s.cause.code :=
  extractLsb'_eq_of_bits fun i hi => by simp [errinfoWord_bit, hi]

theorem errinfoWord_gap (s : State) : s.errinfoWord.extractLsb' 5 3 = 0#3 :=
  extractLsb'_eq_of_bits fun i hi => by
    rw [errinfoWord_bit, if_neg (by omega), if_neg (by omega), if_pos (by omega), BitVec.getLsbD_zero]

theorem errinfoWord_errAddr (s : State) : s.errinfoWord.extractLsb' 8 8 = s.errAddr :=
  extractLsb'_eq_of_bits fun i hi => by
    rw [errinfoWord_bit, if_neg (by omega), if_neg (by omega), if_neg (by omega), if_pos (by omega),
      Nat.add_sub_cancel_left]

theorem errinfoWord_reserved (s : State) : s.errinfoWord.extractLsb' 16 16 = 0#16 :=
  extractLsb'_eq_of_bits fun i hi => by
    rw [errinfoWord_bit, if_neg (by omega), if_neg (by omega), if_neg (by omega), if_neg (by omega),
      BitVec.getLsbD_zero]

/-- Outside ERROR a reachable state has no record, so ERRINFO is 0 (10_state.md R33). -/
theorem State.Inv.errinfoWord_zero {s : State} (hi : s.Inv) (h : s.phase ≠ .error) : s.errinfoWord = 0#32 := by
  obtain ⟨haddr, hwe⟩ := hi.record_clear h
  rw [State.errinfoWord, hi.cause_none h, haddr, hwe]
  rfl

/-- Settles O19: the fields of ERRINFO, and the invariant's clear record outside ERROR. -/
theorem errinfoReadFields : Obligations.ErrinfoReadFields := by
  intro s
  refine ⟨s.errinfoWord, rfl, ?_, errinfoWord_bit s 4, errinfoWord_gap s, errinfoWord_errAddr s,
    errinfoWord_reserved s, State.Inv.errinfoWord_zero⟩
  rw [errinfoWord_cause]
  cases s.cause <;> rfl

/-! ### RD DBG_C and RD DBG_D (42 R170, R171) -/

theorem State.readInCall_of_call {s : State} (addr : Addr) (v : Word) (h : s.phase = .run ∨ s.phase = .done) :
    s.readInCall addr v = s.respond v := by
  rcases h with h | h <;> simp [State.readInCall, h]

theorem State.readInCall_of_idle {s : State} (addr : Addr) (v : Word) (h : s.phase = .idle) :
    s.readInCall addr v = s.trap .notready addr false := by
  simp [State.readInCall, h]

theorem State.readInCall_of_error {s : State} (addr : Addr) (v : Word) (h : s.phase = .error) :
    s.readInCall addr v = s.refuse := by
  simp [State.readInCall, h]

/-- The bits of a packed word that hold the buffer's. -/
theorem getLsbD_pack32 {n : Nat} (b : Buf n) {off j : Nat} (hj : j < 32) (hn : off + j < n) :
    (pack32 b off).getLsbD (31 - j) = bitAt b (off + j) :=
  (packedWordBits n b off j hj).trans (if_pos hn)

/-- The low `k` bits of a packed word are 0 where the buffer ends before them. -/
theorem pack32_padding {n : Nat} (b : Buf n) {off k : Nat} (hk : k ≤ 32) (hn : n ≤ off + (32 - k)) :
    (pack32 b off).extractLsb' 0 k = 0#k := by
  apply extractLsb'_eq_of_bits
  intro i hi
  have hbit := packedWordBits n b off (31 - i) (by omega)
  rw [if_neg (by omega), show 31 - (31 - i) = i by omega] at hbit
  rw [Nat.zero_add, hbit, BitVec.getLsbD_zero]

/-- A half in its debug word: bit `j` at word bit `31 - j`, and four zero bits (20_memory.md R53). -/
theorem pack32_half (b : Buf 28) :
    (∀ j, j < 28 → (pack32 b 0).getLsbD (31 - j) = bitAt b j) ∧ (pack32 b 0).extractLsb' 0 4 = 0#4 := by
  refine ⟨fun j hj => ?_, pack32_padding b (by decide) (by decide)⟩
  rw [getLsbD_pack32 b (by omega) (by omega), Nat.zero_add]

/-- Settles O20: each PHASE of `readInCall`, and the half as a packed word. -/
theorem debugReadsShowTheHalves : Obligations.DebugReadsShowTheHalves := by
  intro s
  refine ⟨fun h => ?_, fun h => ?_, fun h => ?_⟩
  · obtain ⟨hc, hc0⟩ := pack32_half s.readC
    obtain ⟨hd, hd0⟩ := pack32_half s.readD
    exact ⟨s.dbgCWord, s.dbgDWord, congrArg Host.Outcome.next (State.readInCall_of_call _ _ h),
      congrArg Host.Outcome.next (State.readInCall_of_call _ _ h), hc, hc0, hd, hd0⟩
  · exact ⟨congrArg Host.Outcome.next (State.readInCall_of_idle _ _ h),
      congrArg Host.Outcome.next (State.readInCall_of_idle _ _ h)⟩
  · exact ⟨congrArg Host.Outcome.next (State.readInCall_of_error _ _ h),
      congrArg Host.Outcome.next (State.readInCall_of_error _ _ h)⟩

/-! ### The subkey reads (42 R172, R173) -/

theorem State.readWhenDone_of_not_done {s : State} (addr : Addr) (v : Word) (h : s.phase = .idle ∨ s.phase = .run) :
    s.readWhenDone addr v = s.trap .notready addr false := by
  rcases h with h | h <;> simp [State.readWhenDone, h]

theorem State.readWhenDone_of_error {s : State} (addr : Addr) (v : Word) (h : s.phase = .error) :
    s.readWhenDone addr v = s.refuse := by
  simp [State.readWhenDone, h]

/-- A beat after which DONE lasts writes no subkey. -/
theorem BeatEffect.subkey_of_done {s t : State} {b : Beat} (h : BeatEffect s b (.next t)) (ht : t.phase = .done) :
    t.subkey = s.subkey := by
  cases h with
  | refused | answered | wroteKey0 | wroteKey1 => rfl
  | started u hr hl hb =>
    obtain ⟨c, d, -, rfl⟩ := State.load_eq_some hl
    simp at ht
  | trapped | cleared => simp at ht

/-- While DONE lasts no subkey changes. -/
theorem step_subkey_of_done {s t : State} (hp : s.phase = .done) (h : step s = .next t) (ht : t.phase = .done) :
    t.subkey = s.subkey := by
  rcases step_next_cases h with ⟨b, -, he⟩ | ⟨-, hr, -⟩ | ⟨-, -, rfl⟩ | ⟨-, rfl⟩
  · exact he.subkey_of_done ht
  · obtain ⟨hrun, -⟩ := (roundReady_iff s.taken).mp hr
    exact absurd (hp.symm.trans hrun) (by decide)
  · rfl
  · simp at ht

/-- Settles O21: the sixteen rows are one operation, by its PHASE; and DONE keeps the subkeys. -/
theorem subkeyHighReads : Obligations.SubkeyHighReads := by
  refine ⟨fun s i n hmem => ?_, fun _ _ => step_subkey_of_done⟩
  obtain rfl : i = rdSkHi n := skHiReads_eq (i, n) hmem
  refine ⟨fun h => ⟨s.skHiWord n, exec_rdSkHi_of_done n h, fun j hj => ?_⟩, fun h => ?_, fun h => ?_⟩
  · rw [State.skHiWord, getLsbD_pack32 _ hj (by omega), Nat.zero_add]
  · rw [exec_rdSkHi, readSkHi, State.readWhenDone_of_not_done _ _ h, PortReg.addr]
  · rw [exec_rdSkHi, readSkHi, State.readWhenDone_of_error _ _ h]
    rfl

/-- Settles O22: as the high reads, with the sixteen bits of padding. -/
theorem subkeyLowReads : Obligations.SubkeyLowReads := by
  intro s i n hmem
  obtain rfl : i = rdSkLo n := skLoReads_eq (i, n) hmem
  refine ⟨fun h => ⟨s.skLoWord n, exec_rdSkLo_of_done n h, fun j hj => ?_, ?_⟩, fun h => ?_, fun h => ?_⟩
  · exact getLsbD_pack32 _ (by omega) (by omega)
  · exact pack32_padding _ (by decide) (by decide)
  · rw [exec_rdSkLo, readSkLo, State.readWhenDone_of_not_done _ _ h, PortReg.addr]
  · rw [exec_rdSkLo, readSkLo, State.readWhenDone_of_error _ _ h]
    rfl

/-! ### Illegal beats (42 R174) -/

/-- Trap entry, in the words of `EnteredTrap` (60 R210). -/
theorem State.enteredTrap_trap (s : State) (cause : Cause) (addr : Addr) (we : Bool) :
    s.EnteredTrap (s.trap cause addr we) cause addr we :=
  ⟨rfl, rfl, rfl, rfl, rfl, rfl, rfl, rfl, rfl, rfl, rfl, rfl, rfl, rfl⟩

/-- An illegal beat outside ERROR enters the trap with its cause and as presented. -/
theorem step_illegal_entersTrap {s : State} {b : Beat} {rest : List Event} {x : BeatError}
    (hin : s.inputs = .beat b :: rest) (hp : s.phase ≠ .error) (hd : decodeBeat b = .error x) :
    ∃ t, step s = .next t ∧ s.EnteredTrap t (beatErrorCause x) b.addr b.we := by
  refine ⟨s.taken.trap (beatErrorCause x) b.addr b.we, ?_, s.taken.enteredTrap_trap _ _ _⟩
  rw [step_of_illegal (congrArg Prod.fst (nextEvent_cons hin)) hd, State.offend_of_ne_error (s := s.taken) _ _ _ hp]

/-- A write of CMD with a word that is no command. -/
theorem decodeBeat_badCommand {v : Word} (h0 : v ≠ 0#32) (h1 : v ≠ 1#32) (h2 : v ≠ 2#32) :
    decodeBeat (writeBeat .cmd v) = .error .badCommand := by
  rw [decodeBeat_writeBeat, decodeWrite, decodeCommand_eq, if_neg h0, if_neg h1, if_neg h2]

/-- Settles O6: the decoder's first failed test tells the cause, and every illegal beat enters the trap with it. -/
theorem illegalBeatTraps : Obligations.IllegalBeatTraps := by
  intro s b rest hin hp
  constructor
  · intro hillegal
    have hrejected := illegalBeatsAreRejected b
    split_ifs at hrejected with hmisaligned hunmapped hwriteOnly hreadOnly hbad
    · exact step_illegal_entersTrap hin hp hrejected
    · exact step_illegal_entersTrap hin hp hrejected
    · exact step_illegal_entersTrap hin hp hrejected
    · exact step_illegal_entersTrap hin hp hrejected
    · obtain ⟨hw, haddr, -⟩ := hbad
      simp [hw, haddr] at hillegal
    · grind
  · obtain ⟨we, addr, wdata⟩ := b
    rintro rfl rfl h0 h1 h2
    exact step_illegal_entersTrap hin hp (decodeBeat_badCommand h0 h1 h2)

/-! ### The refusals in ERROR (42 R175) -/

/-- In ERROR a beat's instruction other than the four is refused. -/
theorem exec_of_error {s : State} {i : Instr} {b : Beat} (h : s.phase = .error) (hb : encodeBeat i = some b)
    (hi : i ∉ allowedInError) : exec i s = .next s.refuse := by
  cases i with
  | wrCmdStart => exact exec_wrCmdStart_of_error h
  | wrCmdNop | wrCmdClear | rdStatus | rdErrinfo => simp [allowedInError] at hi
  | wrKey0 | wrKey1 => exact congrArg Host.Outcome.next (State.unlessError_of_error _ h)
  | rdDbgC | rdDbgD => exact congrArg Host.Outcome.next (State.readInCall_of_error _ _ h)
  | round | load | getBit | setBit | selectRange | selectByTable | rotateLeft | concatenate => cases hb
  | _ => exact congrArg Host.Outcome.next (State.readWhenDone_of_error _ _ h)

/-- The four instructions that succeed in ERROR succeed in every PHASE. -/
theorem exec_of_allowedInError {i : Instr} (s : State) (h : i ∈ allowedInError) :
    ∃ t, exec i s = .next t ∧ t.err = false := by
  simp only [allowedInError, List.mem_cons, List.not_mem_nil, or_false] at h
  rcases h with rfl | rfl | rfl | rfl <;> exact ⟨_, rfl, rfl⟩

/-- Settles O26: the four that succeed, the refusal of every other instruction, and the refusal of illegal beats. -/
theorem errorRefusesAllButFour : Obligations.ErrorRefusesAllButFour := by
  refine ⟨fun s i _ => exec_of_allowedInError s, fun s i h hb hi => ?_, fun s b rest e h hin hd => ?_⟩
  · obtain ⟨b, hb⟩ := Option.isSome_iff_exists.mp hb
    exact exec_of_error h hb hi
  · refine ⟨s.taken.refuse, ?_, ⟨rfl, rfl, rfl, rfl, rfl, rfl, rfl, rfl, rfl, rfl, rfl, rfl⟩, rfl, rfl⟩
    rw [step_of_illegal (congrArg Prod.fst (nextEvent_cons hin)) hd, State.offend_of_error (s := s.taken) _ _ _ h]

/-! ### The data of a response (42 R176) -/

/-- A beat that fails, and a beat that writes, answers no data. -/
theorem BeatEffect.no_data {s t : State} {b : Beat} (h : BeatEffect s b (.next t)) :
    (t.err = true → t.rdata = 0#32) ∧ (b.we = true → t.rdata = 0#32) := by
  cases h with
  | answered v hw => exact ⟨fun he => by simp at he, hw⟩
  | refused | trapped | wroteKey0 | wroteKey1 | started | cleared => exact ⟨fun _ => rfl, fun _ => rfl⟩

/-- Settles O27: a step whose event is a beat has the effect of a beat. -/
theorem noDataWithAFailure : Obligations.NoDataWithAFailure := by
  intro s t b rest hin h
  exact (h ▸ step_beat_cons hin).no_data

end Sys2Proof.Machine

/-! PROOFS. The statements of 60_exceptions.md: trap entry, what a beat that fails does and one that is served does not,
how ERROR is left, and the primitives' fault BOUNDS. -/

namespace Sys2Proof.Machine

/-! ### Beats that fail and beats that are served (60 R209, R210) -/

/-- Outside ERROR a beat that answers err = 1 has entered the trap. -/
theorem BeatEffect.eq_trap_of_err {s t : State} {b : Beat} (h : BeatEffect s b (.next t)) (hp : s.phase ≠ .error)
    (he : t.err = true) : ∃ cause, cause ≠ .none ∧ cause ≠ .bounds ∧ t = s.trap cause b.addr b.we := by
  cases h with
  | refused h => exact absurd h hp
  | trapped cause _ hn hb => exact ⟨cause, hn, hb, rfl⟩
  | answered | wroteKey0 | wroteKey1 | started | cleared => simp at he

/-- Outside ERROR a beat that answers err = 0 does not lead to ERROR. -/
theorem BeatEffect.phase_ne_error_of_served {s t : State} {b : Beat} (h : BeatEffect s b (.next t))
    (hp : s.phase ≠ .error) (he : t.err = false) : t.phase ≠ .error := by
  cases h with
  | refused | trapped => simp at he
  | answered | wroteKey0 | wroteKey1 => exact hp
  | started u hr hl hb =>
    obtain ⟨c, d, -, rfl⟩ := State.load_eq_some hl
    simp
  | cleared => simp

/-- Settles O25: of a beat's effects outside ERROR only trap entry answers err = 1, and only it leads to ERROR. -/
theorem faultingBeatOnlyEntersTrap : Obligations.FaultingBeatOnlyEntersTrap := by
  intro s t b rest hin hp h
  have heffect : BeatEffect (s.takeEvent rest) b (.next t) := h ▸ step_beat_cons hin
  refine ⟨fun he => ?_, heffect.phase_ne_error_of_served hp⟩
  obtain ⟨cause, hn, hb, rfl⟩ := heffect.eq_trap_of_err hp he
  exact ⟨State.enteredTrap_trap _ cause _ _, hn, hb⟩

/-! ### How ERROR is left (60 R212, R213) -/

/-- In ERROR a beat other than CLEAR changes no register: it is refused or merely answered. -/
theorem BeatEffect.sameRegisters_or_clear_of_error {s t : State} {b : Beat} (h : BeatEffect s b (.next t))
    (hp : s.phase = .error) : s.SameRegisters t ∨ (b = clearBeat ∧ t = s.clear.respond 0#32) := by
  cases h with
  | refused | answered => exact .inl ⟨rfl, rfl, rfl, rfl, rfl, rfl, rfl, rfl, rfl, rfl, rfl, rfl⟩
  | trapped _ h | wroteKey0 _ h | wroteKey1 _ h => exact absurd hp h
  | started u hr hl hb =>
    obtain ⟨hfrom, -⟩ := (loadReady_iff s).mp hr
    simp [hp] at hfrom
  | cleared hb => exact .inr ⟨hb, rfl⟩

/-- In ERROR the sequencer has no step. -/
theorem State.roundReady_of_error {s : State} (h : s.phase = .error) : s.roundReady = false := by
  simp [State.roundReady, h]

/-- A step from ERROR changes no register, or is CLEAR or reset, after which PHASE is IDLE and no cause recorded. -/
theorem step_of_error {s t : State} (hp : s.phase = .error) (h : step s = .next t) :
    s.SameRegisters t
      ∨ (t.phase = .idle ∧ t.cause = .none ∧ (s.nextEvent.1 = .reset ∨ s.nextEvent.1 = .beat clearBeat)) := by
  rcases step_next_cases h with ⟨b, hb, he⟩ | ⟨-, hr, -⟩ | ⟨-, -, rfl⟩ | ⟨hreset, rfl⟩
  · rcases he.sameRegisters_or_clear_of_error hp with hsame | ⟨rfl, rfl⟩
    · exact .inl hsame
    · exact .inr ⟨rfl, rfl, .inr hb⟩
  · have hidle := State.roundReady_of_error (s := s.taken) hp
    exact absurd (hidle.symm.trans hr) (by decide)
  · exact .inl ⟨rfl, rfl, rfl, rfl, rfl, rfl, rfl, rfl, rfl, rfl, rfl, rfl⟩
  · exact .inr ⟨rfl, rfl, .inl hreset⟩

/-- Settles O28: a step from ERROR that changes a register is CLEAR or reset. -/
theorem errorIsSticky : Obligations.ErrorIsSticky := by
  intro s t hp h
  rcases step_of_error hp h with hsame | hleft
  · obtain ⟨hk0, hk1, hkv, hc, hd, hsk, hphase, hround, hcause, haddr, hwe, -⟩ := hsame
    exact .inl ⟨hphase.trans hp, hcause, haddr, hwe, hround, hkv, hk0, hk1, hc, hd, hsk⟩
  · exact .inr hleft

/-! ### `fault BOUNDS` of the primitives (60 R203)

A primitive faults exactly when the precondition of its rule fails, which is what `Instr.wf` tests. -/

section Faults

variable {n : Nat} (b : Buf n)

theorem getBit_eq_none_iff {pos : Nat} : getBit b pos = none ↔ n ≤ pos := by
  simp [getBit_eq]

theorem setBit_eq_none_iff {pos : Nat} (v : Bool) : setBit b pos v = none ↔ n ≤ pos := by
  simp [setBit_eq]

theorem selectRange_eq_none_iff {start length : Nat} : selectRange b start length = none ↔ n < start + length := by
  simp [selectRange]

theorem selectByTable_eq_none_iff {table : List Nat} :
    selectByTable b table = none ↔ entriesWithin n table = false := by
  simp [selectByTable]

theorem rotateLeft_eq_none_iff {bitLength amount : Nat} :
    rotateLeft b bitLength amount = none ↔ n < bitLength ∨ bitLength ≤ amount := by
  simp [rotateLeft, or_iff_not_imp_left]

theorem concatenate_eq_none_iff {m la lb : Nat} (a : Buf m) : concatenate a la b lb = none ↔ m < la ∨ n < lb := by
  simp [concatenate, or_iff_not_imp_left]

end Faults

/-- The unit's output is `fault BOUNDS` exactly when the primitive answers no value, if no value is shown as that
fault. -/
theorem State.unitAnswer_eq_bounds_iff {α : Type} (s : State) {out : α → UnitOut} (hout : ∀ v, out v ≠ .bounds)
    (r : Option α) : (s.unitAnswer out r).unitOut = .bounds ↔ r = none := by
  cases r with
  | none => simp
  | some v => simp [hout v]

/-- An instruction that puts a primitive's answer on the unit's output, and whose operands are ill formed exactly where
the primitive faults. -/
theorem exec_answers_bounds_iff {α : Type} {i : Instr} {s : State} {out : α → UnitOut} {r : Option α}
    (h : exec i s = .next (s.unitAnswer out r)) (hout : ∀ v, out v ≠ .bounds) (hwf : r = none ↔ i.wf = false) :
    ∃ t, exec i s = .next t ∧ (t.unitOut = .bounds ↔ i.wf = false) ∧ t = { s with unitOut := t.unitOut } :=
  ⟨_, h, (s.unitAnswer_eq_bounds_iff hout r).trans hwf, s.unitAnswer_frame out r⟩

theorem bufOut_ne_bounds {n : Nat} (b : Buf n) : bufOut b ≠ .bounds :=
  UnitOut.noConfusion

/-- Settles O53: for each primitive, the operands at which it faults are those `Instr.wf` rejects. -/
theorem illFormedPrimitivesAnswerBounds : Obligations.IllFormedPrimitivesAnswerBounds := by
  intro i s henc hload
  cases i with
  | getBit b pos =>
    refine exec_answers_bounds_iff (exec_getBit b pos s) (fun _ => UnitOut.noConfusion) ?_
    simp [getBit_eq_none_iff, Instr.wf]
  | setBit b pos v =>
    refine exec_answers_bounds_iff (exec_setBit b pos v s) bufOut_ne_bounds ?_
    simp [setBit_eq_none_iff, Instr.wf]
  | selectRange b start length =>
    refine exec_answers_bounds_iff (exec_selectRange b start length s) bufOut_ne_bounds ?_
    simp [selectRange_eq_none_iff, Instr.wf]
  | selectByTable b table =>
    exact exec_answers_bounds_iff (exec_selectByTable b table s) bufOut_ne_bounds (selectByTable_eq_none_iff b.bits)
  | rotateLeft b bitLength amount =>
    refine exec_answers_bounds_iff (exec_rotateLeft b bitLength amount s) bufOut_ne_bounds ?_
    simp [rotateLeft_eq_none_iff, Instr.wf, or_iff_not_imp_left]
  | concatenate a la b lb =>
    refine exec_answers_bounds_iff (exec_concatenate a la b lb s) bufOut_ne_bounds ?_
    simp [concatenate_eq_none_iff, Instr.wf, or_iff_not_imp_left]
  | load => exact absurd rfl hload
  | _ => cases henc

/-! ### Trap entry (60 R210) -/

/-- Settles O24: outside ERROR an offending beat is `State.trap`, whose writes and outputs are read off. -/
theorem trapEntryRecordsAndWithdraws : Obligations.TrapEntryRecordsAndWithdraws := by
  intro s cause addr we hp
  rw [State.offend_of_ne_error cause addr we hp]
  exact ⟨rfl, rfl, rfl, rfl, rfl⟩

end Sys2Proof.Machine

/-! PROOFS. The statements of 70_reset_and_hazards.md: reset, the answer of every step, and the call that the host's
program LDKEY, START makes. -/

namespace Sys2Proof.Machine

/-! ### Reset (70 R240, R241) -/

/-- A cleared state shows an empty STATUS (10_state.md R32, R38). -/
theorem State.clear_statusWord (s : State) : s.clear.statusWord = 0#32 := by
  simp [State.statusWord, Phase.code]

/-- Settles O8: reset is `State.clear` of the state at which it acts, whose registers and views are read off. -/
theorem resetEventGivesResetState : Obligations.ResetEventGivesResetState := by
  intro s hreset
  refine ⟨s.taken.clear, step_reset hreset, rfl, rfl, rfl, rfl, rfl, rfl, rfl, fun i => ?_, rfl, rfl, rfl, rfl, rfl,
    rfl, s.taken.clear_statusWord, s.taken.inv_clear.errinfoWord_zero (by simp), rfl, rfl, rfl⟩
  simp only [State.clear_subkey, Fin.getElem_fin, Vector.getElem_replicate]

/-! ### Every step answers (70 R252) -/

/-- No effect of a beat is a stop. -/
theorem BeatEffect.answers {s : State} {b : Beat} {o : Outcome} (h : BeatEffect s b o) : ∃ t, o = .next t := by
  cases h <;> exact ⟨_, rfl⟩

/-- Settles O34: a beat and reset always answer; the sequencer's step is ROUND in RUN, where the tables are good and no
primitive faults. -/
theorem everyStepAnswers : Obligations.EveryStepAnswers := by
  intro s htables
  rcases step_cases s with ⟨b, -, he⟩ | ⟨-, he⟩ | ⟨-, he⟩
  · exact he.answers
  · split at he
    · rename_i hready
      obtain ⟨hrun, hlt⟩ := (roundReady_iff s.taken).mp hready
      obtain ⟨t, ht⟩ := State.runRound_isSome (s := s.taken) (htables hrun) hlt
      exact ⟨t, by rw [he, ht, microOutcome]⟩
    · exact ⟨_, he⟩
  · exact ⟨_, he⟩

/-! ### LDKEY (30_encoding.md R93) -/

/-- A run that begins with `m` steps to `u` goes on from `u`. -/
theorem run_add {s u : State} (m n : Nat) (h : Sys2Proof.core.run m s = .next u) :
    Sys2Proof.core.run (m + n) s = Sys2Proof.core.run n u := by
  induction m generalizing s with
  | zero => rw [Nat.zero_add, Host.Outcome.next.inj h]
  | succ m ih =>
    obtain ⟨v, hv, hrest⟩ := run_succ_eq_next h
    rw [Nat.succ_add, run_succ _ hv, ih hrest]

/-- WR KEY0 outside ERROR, as a step. -/
theorem step_writeKey0 {s : State} {v : Word} {rest : List Event} (hin : s.inputs = wrEvent .key0 v :: rest)
    (hp : s.phase ≠ .error) : step s = .next
      ({ s.takeEvent rest with key0 := some (keyHalf v), keyvalid := setKey0Valid s.keyvalid }.respond 0#32) := by
  rw [step_of_decoded (congrArg Prod.fst (nextEvent_cons hin)) (decodeBeat_writeBeat .key0 v), taken_cons hin]
  exact congrArg Host.Outcome.next (State.unlessError_of_ne_error (s := s.takeEvent rest) _ hp)

/-- WR KEY1 outside ERROR, as a step. -/
theorem step_writeKey1 {s : State} {v : Word} {rest : List Event} (hin : s.inputs = wrEvent .key1 v :: rest)
    (hp : s.phase ≠ .error) : step s = .next
      ({ s.takeEvent rest with key1 := some (keyHalf v), keyvalid := setKey1Valid s.keyvalid }.respond 0#32) := by
  rw [step_of_decoded (congrArg Prod.fst (nextEvent_cons hin)) (decodeBeat_writeBeat .key1 v), taken_cons hin]
  exact congrArg Host.Outcome.next (State.unlessError_of_ne_error (s := s.takeEvent rest) _ hp)

/-- Both halves written, KEYVALID is 0b11 (10_state.md R22). -/
theorem setBothKeysValid : ∀ kv : BitVec 2, setKey1Valid (setKey0Valid kv) = 0b11#2 := by decide

/-- The halves of KEY that LDKEY's two words carry are those of its key. -/
theorem keyHalf_append_keyHalf (key : BitVec 64) :
    keyHalf (key.extractLsb' 32 32) ++ keyHalf (key.extractLsb' 0 32) = key := by
  rw [keyHalf, keyHalf, unpack32_eq, unpack32_eq]
  exact BitVec.extractLsb'_append_extractLsb'

/-- LDKEY before START in IDLE or DONE: after its two beats START is the next event, and finds the key. -/
theorem run_ldkey {s : State} {key : BitVec 64} (hp : s.phase = .idle ∨ s.phase = .done)
    (ht : tablesOk s.cfg = true) (hin : s.inputs = programEvents [.ldkey key, .start]) :
    ∃ t, Sys2Proof.core.run 2 s = .next t ∧ t.inputs = [.beat startBeat] ∧ t.cfg = s.cfg
      ∧ t.Starts (keyHalf (key.extractLsb' 32 32)) (keyHalf (key.extractLsb' 0 32)) := by
  have hne : s.phase ≠ .error := by rcases hp with h | h <;> simp [h]
  have hfirst := step_writeKey0 (rest := [wrEvent .key1 (key.extractLsb' 0 32), .beat startBeat]) hin hne
  refine ⟨_, (run_succ 1 hfirst).trans (run_one (step_writeKey1 rfl hne)), rfl, rfl, rfl, hp, ht,
    setBothKeysValid s.keyvalid, rfl, rfl⟩

/-! ### The call it starts (41 R130, R132) -/

/-- When no event waits a step is the sequencer's turn, which is no beat: still none waits, and err is 0. -/
theorem step_of_no_events {s t : State} (hin : s.inputs = []) (h : step s = .next t) :
    t.inputs = [] ∧ t.err = false := by
  have hnext := nextEvent_nil hin
  have htaken : s.taken.inputs = [] ∧ s.taken.err = false := by simp [State.taken, hnext]
  rcases step_next_cases h with ⟨b, hb, -⟩ | ⟨-, -, hround⟩ | ⟨-, -, rfl⟩ | ⟨hr, -⟩
  · simp [hnext] at hb
  · obtain ⟨c, d, sk, -, rfl⟩ := State.runRound_eq_some hround
    exact htaken
  · exact htaken
  · simp [hnext] at hr

/-- A run in which no event waits ends with err 0. -/
theorem run_of_no_events (k : Nat) {s t : State} (hin : s.inputs = []) (he : s.err = false)
    (h : Sys2Proof.core.run k s = .next t) : t.err = false := by
  induction k generalizing s with
  | zero => exact Host.Outcome.next.inj h ▸ he
  | succ k ih =>
    obtain ⟨u, hu, hrest⟩ := run_succ_eq_next h
    obtain ⟨hin', he'⟩ := step_of_no_events hin hu
    exact ih hin' he' hrest

/-- An accepted START is LOAD and the response. -/
theorem State.Starts.step_eq_loaded {s : State} {k0 k1 : Buf 32} {c d : Buf 28} (hst : s.Starts k0 k1)
    (hs : splitKey s.cfg (k0 ++ k1) = some (c, d)) : Machine.step s = .next ((s.taken.loaded c d).respond 0#32) := by
  have hready : s.taken.loadReady = true := (loadReady_iff s.taken).mpr ⟨hst.phase, hst.tables, hst.keyvalid⟩
  have hkey : s.taken.readKey = k0 ++ k1 := State.readKey_of_some (s := s.taken) hst.key0 hst.key1
  have hload := State.load_of_splitKey (s := s.taken) (hkey.symm ▸ hs)
  rw [step_of_decoded hst.next (by decide : decodeBeat startBeat = .ok .wrCmdStart), exec_wrCmdStart_of_ready hready,
    hload]
  rfl

/-- A START that is accepted with no event after it: sixteen turns of the sequencer later the call is done. -/
theorem State.Starts.run_to_done {s : State} {k0 k1 : Buf 32} (hst : s.Starts k0 k1)
    (hin : s.inputs = [.beat startBeat]) : ∃ t subkeys, Sys2Proof.core.run 17 s = .next t ∧ t.phase = .done
      ∧ t.err = false ∧ deriveSubkeys s.cfg (k0 ++ k1) = some subkeys
      ∧ ∀ i : Fin 16, t.subkey[i] = subkeys[i.val]? := by
  obtain ⟨c, d, hs, -⟩ := splitKey_bits ((tablesOk_iff _).mp hst.tables) (k0 ++ k1)
  have hstart := hst.step_eq_loaded hs
  have hnone : ((s.taken.loaded c d).respond 0#32).inputs = [] := by
    rw [taken_cons hin]
    rfl
  obtain ⟨⟨t, hrun, hdone, -⟩, hstay⟩ :=
    remainingRoundsReachDone ((s.taken.loaded c d).respond 0#32) rfl (Nat.zero_lt_succ 15) hst.tables hnone
  obtain ⟨subkeys, hderive, hstored, -⟩ := ((hst.step hs hstart).run 16 hstay hrun (.inr hdone)).done hdone
  exact ⟨t, subkeys, (run_succ 16 hstart).trans hrun, hdone, run_of_no_events 16 hnone rfl hrun, hderive, hstored⟩

/-- Settles O41: two steps write the key, the third is an accepted START, and sixteen turns of the sequencer finish its
call. -/
theorem deriveFromHostProgram : Obligations.DeriveFromHostProgram := by
  intro s key hp ht hin
  obtain ⟨u, hkeyed, hin', hcfg, hst⟩ := run_ldkey hp ht hin
  obtain ⟨t, subkeys, hrun, hdone, herr, hderive, hstored⟩ := hst.run_to_done hin'
  rw [keyHalf_append_keyHalf, hcfg] at hderive
  exact ⟨t, subkeys, (run_add 2 17 hkeyed).trans hrun, hdone, herr, hderive, hstored⟩

end Sys2Proof.Machine
